-- ==== Sys2Proof/Word.lean ====
section
/-! DEFINITION. Word.lean: the word types of the block. -/

namespace Sys2Proof

/-- The value of one U register: exactly 256 bits, unsigned (R3, R10). -/
abbrev U256 := BitVec 256

/-- A command word, and the value of a control register: 32 bits (R50, R18, R19, R21). -/
abbrev Word := BitVec 32

/-- One byte of a register image (R31). -/
abbrev Byte := BitVec 8

/-- The index of a U register: 3 bits, all eight values valid (R11, R51). -/
abbrev Reg := Fin 8

/-- The 32-byte image LOAD and STORE move (R31): exactly 32 bytes, so that no other shape is a
transaction (93_implementation_defined.md I11). -/
abbrev Image := Vector Byte 32

end Sys2Proof
end

