-- ==== Sys2Proof/Syntax.lean ====
section
/-! DEFINITION. Syntax.lean: the fifteen commands of the opcode map (R54), with the operands of their
formats (R52). -/

namespace Sys2Proof

/-- One constructor per row of spec/opcode_table.json. `rd` is the destination, `rs1` and `rs2` the
sources, `rd2` DIVMOD's remainder destination, `imm` the unsigned immediate (R51). -/
inductive Instr where
  | add (rd rs1 rs2 : Reg)
  | sub (rd rs1 rs2 : Reg)
  | mul (rd rs1 rs2 : Reg)
  | divmod (rd rd2 rs1 rs2 : Reg)
  | shl (rd rs1 rs2 : Reg)
  | shr (rd rs1 rs2 : Reg)
  | shli (rd rs1 : Reg) (imm : BitVec 12)
  | shri (rd rs1 : Reg) (imm : BitVec 12)
  | and (rd rs1 rs2 : Reg)
  | or (rd rs1 rs2 : Reg)
  | xor (rd rs1 rs2 : Reg)
  | andn (rd rs1 rs2 : Reg)
  | not (rd rs1 : Reg)
  | cmp (rs1 rs2 : Reg)
  | popcnt (rs1 : Reg)
  deriving DecidableEq, Repr

/-- The opcode `op = cmd[31:24]` of a command (R54). -/
def Instr.opcode : Instr → BitVec 8
  | .add _ _ _ => 0x01
  | .sub _ _ _ => 0x02
  | .mul _ _ _ => 0x03
  | .divmod _ _ _ _ => 0x04
  | .shl _ _ _ => 0x05
  | .shr _ _ _ => 0x06
  | .shli _ _ _ => 0x07
  | .shri _ _ _ => 0x08
  | .and _ _ _ => 0x09
  | .or _ _ _ => 0x0A
  | .xor _ _ _ => 0x0B
  | .andn _ _ _ => 0x0C
  | .not _ _ => 0x0D
  | .cmp _ _ => 0x0E
  | .popcnt _ => 0x0F

/-- The U registers a command names as destinations: none for CMP and POPCNT, two for DIVMOD (R52). -/
def Instr.dests : Instr → List Reg
  | .add rd _ _ => [rd]
  | .sub rd _ _ => [rd]
  | .mul rd _ _ => [rd]
  | .divmod rd rd2 _ _ => [rd, rd2]
  | .shl rd _ _ => [rd]
  | .shr rd _ _ => [rd]
  | .shli rd _ _ => [rd]
  | .shri rd _ _ => [rd]
  | .and rd _ _ => [rd]
  | .or rd _ _ => [rd]
  | .xor rd _ _ => [rd]
  | .andn rd _ _ => [rd]
  | .not rd _ => [rd]
  | .cmp _ _ => []
  | .popcnt _ => []

/-- The U registers a command reads, in the order its rule reads them (R52, R20). -/
def Instr.sources : Instr → List Reg
  | .add _ rs1 rs2 => [rs1, rs2]
  | .sub _ rs1 rs2 => [rs1, rs2]
  | .mul _ rs1 rs2 => [rs1, rs2]
  | .divmod _ _ rs1 rs2 => [rs1, rs2]
  | .shl _ rs1 rs2 => [rs1, rs2]
  | .shr _ rs1 rs2 => [rs1, rs2]
  | .shli _ rs1 _ => [rs1]
  | .shri _ rs1 _ => [rs1]
  | .and _ rs1 rs2 => [rs1, rs2]
  | .or _ rs1 rs2 => [rs1, rs2]
  | .xor _ rs1 rs2 => [rs1, rs2]
  | .andn _ rs1 rs2 => [rs1, rs2]
  | .not _ rs1 => [rs1]
  | .cmp rs1 rs2 => [rs1, rs2]
  | .popcnt rs1 => [rs1]

end Sys2Proof
end

