-- ==== Sys2Proof/WellFormed.lean ====
section
/-! DEFINITION. WellFormed.lean: the one constraint between the fields of a command. -/

namespace Sys2Proof

/-- R56: "This is the only constraint between fields": a DIVMOD names two different destinations. Every
register index and every immediate is legal by its type (R51, R53). -/
def Instr.wellFormed : Instr → Bool
  | .add _ _ _ => true
  | .sub _ _ _ => true
  | .mul _ _ _ => true
  | .divmod rd rd2 _ _ => decide (rd ≠ rd2)
  | .shl _ _ _ => true
  | .shr _ _ _ => true
  | .shli _ _ _ => true
  | .shri _ _ _ => true
  | .and _ _ _ => true
  | .or _ _ _ => true
  | .xor _ _ _ => true
  | .andn _ _ _ => true
  | .not _ _ => true
  | .cmp _ _ => true
  | .popcnt _ => true

end Sys2Proof
end

