-- ==== Sys2Proof/Decode.lean ====
section
/-! DEFINITION. Decode.lean: the fields of a command word (R51), the total decoder (R57), the opcode map
(R54), the encoder, and the order of a command word's bytes in a platform's memory (R32). -/

namespace Sys2Proof

/-- A 3-bit register field as the register it selects: all eight values are valid (R51). -/
def regOfBits (b : BitVec 3) : Reg := b.toFin

/-- The 3-bit field that selects a register (R51). -/
def bitsOfReg (r : Reg) : BitVec 3 := BitVec.ofFin r

/-- `op`, bits 31:24 (R51). -/
def opField (w : Word) : BitVec 8 := w.extractLsb' 24 8

/-- `rd`, bits 23:21 (R51). -/
def rdField (w : Word) : Reg := regOfBits (w.extractLsb' 21 3)

/-- `rs1`, bits 20:18 (R51). -/
def rs1Field (w : Word) : Reg := regOfBits (w.extractLsb' 18 3)

/-- `rs2`, bits 17:15 (R51). -/
def rs2Field (w : Word) : Reg := regOfBits (w.extractLsb' 15 3)

/-- `rd2`, bits 14:12 (R51). -/
def rd2Field (w : Word) : Reg := regOfBits (w.extractLsb' 12 3)

/-- `imm`, bits 11:0 (R51, R53). -/
def immField (w : Word) : BitVec 12 := w.extractLsb' 0 12

/-- Why a word is no command. `truncated` is only for `decodeBytes`: fewer than four bytes were there.
The other three are the three ways R141 lists; which is named when two apply is assumption log 12. -/
inductive Reject where
  | reservedOpcode
  | mustBeZero
  | sameDestinations
  | truncated
  deriving DecidableEq, Repr

/-- Format R3: `rd2` and `imm` must be zero (R52). -/
def decodeR3 (mk : Reg → Reg → Reg → Instr) (w : Word) : Except Reject Instr :=
  if rd2Field w = 0 ∧ immField w = 0 then .ok (mk (rdField w) (rs1Field w) (rs2Field w))
  else .error .mustBeZero

/-- Format R4, DIVMOD only: `imm` must be zero (R52) and the destinations differ (R56). -/
def decodeR4 (w : Word) : Except Reject Instr :=
  if immField w ≠ 0 then .error .mustBeZero
  else if rdField w = rd2Field w then .error .sameDestinations
  else .ok (.divmod (rdField w) (rd2Field w) (rs1Field w) (rs2Field w))

/-- Format RI: `rs2` and `rd2` must be zero (R52). -/
def decodeRI (mk : Reg → Reg → BitVec 12 → Instr) (w : Word) : Except Reject Instr :=
  if rs2Field w = 0 ∧ rd2Field w = 0 then .ok (mk (rdField w) (rs1Field w) (immField w))
  else .error .mustBeZero

/-- Format R2, NOT only: `rs2`, `rd2` and `imm` must be zero (R52). -/
def decodeR2 (w : Word) : Except Reject Instr :=
  if rs2Field w = 0 ∧ rd2Field w = 0 ∧ immField w = 0 then .ok (.not (rdField w) (rs1Field w))
  else .error .mustBeZero

/-- Format S2, CMP only: `rd`, `rd2` and `imm` must be zero (R52). -/
def decodeS2 (w : Word) : Except Reject Instr :=
  if rdField w = 0 ∧ rd2Field w = 0 ∧ immField w = 0 then .ok (.cmp (rs1Field w) (rs2Field w))
  else .error .mustBeZero

/-- Format S1, POPCNT only: `rd`, `rs2`, `rd2` and `imm` must be zero (R52). -/
def decodeS1 (w : Word) : Except Reject Instr :=
  if rdField w = 0 ∧ rs2Field w = 0 ∧ rd2Field w = 0 ∧ immField w = 0 then .ok (.popcnt (rs1Field w))
  else .error .mustBeZero

/-- The decoder of R57, total: every word is one command or is rejected by name. -/
def decode (w : Word) : Except Reject Instr :=
  match (opField w).toNat with
  | 0x01 => decodeR3 .add w
  | 0x02 => decodeR3 .sub w
  | 0x03 => decodeR3 .mul w
  | 0x04 => decodeR4 w
  | 0x05 => decodeR3 .shl w
  | 0x06 => decodeR3 .shr w
  | 0x07 => decodeRI .shli w
  | 0x08 => decodeRI .shri w
  | 0x09 => decodeR3 .and w
  | 0x0A => decodeR3 .or w
  | 0x0B => decodeR3 .xor w
  | 0x0C => decodeR3 .andn w
  | 0x0D => decodeR2 w
  | 0x0E => decodeS2 w
  | 0x0F => decodeS1 w
  | _ => .error .reservedOpcode

/-- The word with the six given fields, most significant field first (R51). -/
def packWord (op : BitVec 8) (rd rs1 rs2 rd2 : Reg) (imm : BitVec 12) : Word :=
  op ++ bitsOfReg rd ++ bitsOfReg rs1 ++ bitsOfReg rs2 ++ bitsOfReg rd2 ++ imm

/-- The word of a command (R52, R54): each operand in its field, every unused field zero. -/
def encode : Instr → Word
  | .add rd rs1 rs2 => packWord 0x01 rd rs1 rs2 0 0
  | .sub rd rs1 rs2 => packWord 0x02 rd rs1 rs2 0 0
  | .mul rd rs1 rs2 => packWord 0x03 rd rs1 rs2 0 0
  | .divmod rd rd2 rs1 rs2 => packWord 0x04 rd rs1 rs2 rd2 0
  | .shl rd rs1 rs2 => packWord 0x05 rd rs1 rs2 0 0
  | .shr rd rs1 rs2 => packWord 0x06 rd rs1 rs2 0 0
  | .shli rd rs1 imm => packWord 0x07 rd rs1 0 0 imm
  | .shri rd rs1 imm => packWord 0x08 rd rs1 0 0 imm
  | .and rd rs1 rs2 => packWord 0x09 rd rs1 rs2 0 0
  | .or rd rs1 rs2 => packWord 0x0A rd rs1 rs2 0 0
  | .xor rd rs1 rs2 => packWord 0x0B rd rs1 rs2 0 0
  | .andn rd rs1 rs2 => packWord 0x0C rd rs1 rs2 0 0
  | .not rd rs1 => packWord 0x0D rd rs1 0 0 0
  | .cmp rs1 rs2 => packWord 0x0E 0 rs1 rs2 0 0
  | .popcnt rs1 => packWord 0x0F 0 rs1 0 0 0

/-- The `match` and `mask` columns of the opcode map (R54), one row an opcode. A row is
(opcode, match, mask). -/
def opcodeMap : List (BitVec 8 × Word × Word) :=
  [ (0x01, 0x01000000, 0xFF007FFF), (0x02, 0x02000000, 0xFF007FFF), (0x03, 0x03000000, 0xFF007FFF),
    (0x04, 0x04000000, 0xFF000FFF), (0x05, 0x05000000, 0xFF007FFF), (0x06, 0x06000000, 0xFF007FFF),
    (0x07, 0x07000000, 0xFF03F000), (0x08, 0x08000000, 0xFF03F000), (0x09, 0x09000000, 0xFF007FFF),
    (0x0A, 0x0A000000, 0xFF007FFF), (0x0B, 0x0B000000, 0xFF007FFF), (0x0C, 0x0C000000, 0xFF007FFF),
    (0x0D, 0x0D000000, 0xFF03FFFF), (0x0E, 0x0E000000, 0xFFE07FFF), (0x0F, 0x0F000000, 0xFFE3FFFF) ]

/-- The word of four bytes of a platform's memory, the byte at the lowest address first: it is the least
significant one (R32). -/
def wordOfBytes (b0 b1 b2 b3 : Byte) : Word := b3 ++ b2 ++ b1 ++ b0

/-- Decode the command word at the head of a platform's byte list (R32), and give the bytes after it. -/
def decodeBytes : List Byte → Except Reject (Instr × List Byte)
  | b0 :: b1 :: b2 :: b3 :: rest =>
    match decode (wordOfBytes b0 b1 b2 b3) with
    | .ok i => .ok (i, rest)
    | .error e => .error e
  | _ => .error .truncated

/-- The word whose low `nbits` bits are those of `w`, every bit above them zero. -/
def tableWord (nbits w : Nat) : Word := BitVec.ofNat 32 (w % 2 ^ nbits)

/-- The instruction the decoder reads from a word numbered as spec/opcode_table.json numbers it: bit 0 is
the least significant bit of the one 32-bit word (R32, R51). -/
def decodeTableWord (nbits w : Nat) : Option Instr :=
  match decode (tableWord nbits w) with
  | .ok i => some i
  | .error _ => none

end Sys2Proof
end

