-- ==== Sys2Proof/Config.lean ====
section
/-! DEFINITION. Config.lean: what is fixed for the block (R3 to R5), and the free values. -/

namespace Sys2Proof

/-- The limb width the spec takes for its reference datapaths (R4). No architectural result depends on it. -/
def Config.limbWidth : Nat := 32

/-- The limb count that goes with `Config.limbWidth` (R4). -/
def Config.limbCount : Nat := 8

/-- The free values: what the n-th read of a U register with no specified value answers. The spec says
nothing about those bits (R160, R170), and 93_implementation_defined.md I1 asks for a fresh unconstrained
draw at every read. No body: nothing can be proved about its values. Assumption log 2. -/
opaque Config.unspecifiedU : Nat → U256

end Sys2Proof
end

