-- ==== Sys2Proof/Machine/State.lean ====
section
/-! DEFINITION. Machine/State.lean: the state of the block (10_state.md), the transactions of its one host
(47_host_interface.md), and the reasons a step can stop. -/

namespace Sys2Proof.Machine

/-- The six transactions, "exactly six things" the host can do to the block (R125). -/
inductive Transaction where
  /-- LOAD: write a whole register from a 32-byte image (R126). -/
  | load (i : Reg) (bytes : Image)
  /-- STORE: read a whole register as a 32-byte image (R127). -/
  | store (i : Reg)
  /-- EXEC: offer one command word (R128). -/
  | exec (w : Word)
  /-- CSRRD: read a control register by its number, a natural number (R129, R30). -/
  | csrrd (k : Nat)
  /-- ACK: acknowledge a fault (R130). -/
  | ack
  /-- RESET: put the block in its reset state (R131). -/
  | reset
  deriving DecidableEq, Repr

/-- What a transaction returns to the host; the other four return nothing (R125). -/
inductive Reply where
  /-- The 32 bytes a STORE returns (R127). -/
  | image (bytes : Image)
  /-- The 32-bit value a CSRRD returns (R129). -/
  | csr (value : Word)
  deriving DecidableEq, Repr

/-- The block's state, and the model's own fields that stand for its host and for unspecified values. -/
structure State where
  /-- `U[0]` to `U[7]` (R10). A register whose `written` bit is false has no specified value: no read
  answers what stands here (assumption log 1 and 2). -/
  u : Vector U256 8
  /-- Which `U[i]` has had a specified value since the last RESET (R160, R165, R170). -/
  written : Vector Bool 8
  /-- `SRES`, CSR 1, the scalar result register (R18). -/
  sres : Word
  /-- `STATUS.FAULT`, bits 3:0 of CSR 0 (R19). Bits 31:4 of STATUS read as zero and nothing writes them,
  so they hold nothing: `State.status` supplies them. -/
  fault : BitVec 4
  /-- `FCMD`, CSR 2, the faulting command register (R21). -/
  fcmd : Word
  /-- Whether a RESET has been performed since power was applied (R161, R165). Assumption log 5. -/
  resetDone : Bool
  /-- The model's own: the transactions the host issues next, in order (R38, R134). Assumption log 4. -/
  pending : List Transaction
  /-- The model's own: what the host has read back, oldest first (R134). Assumption log 20. -/
  replies : List Reply
  /-- The model's own: how many free values have been taken. Assumption log 3. -/
  draws : Nat
  deriving DecidableEq, Repr

/-- No constructor: the spec names no event that stops the block. IllegalCommand and DivideByZero are next
states (R146), in which EXEC is dropped until ACK (R148). -/
inductive Fault where
  deriving DecidableEq, Repr

/-- The reasons for which a step has no meaning. -/
inductive Refusal where
  /-- An instruction with no meaning yet, raised by `exec`'s arm for it. Safe. No arm raises it. -/
  | notModelled (mnemonic : String)
  /-- CSRRD of a number above 2, raised by `performCsrrd`: the spec "gives it no meaning" (R129,
  93_implementation_defined.md I4). Safe. Assumption log 6. -/
  | noSuchCsr (k : Nat)
  /-- A transaction other than RESET before the first RESET after power-up, raised by `issue`: "no
  transaction other than RESET has a defined meaning before it" (R161, I8). Safe. Assumption log 5. -/
  | beforeFirstReset
  deriving DecidableEq, Repr

/-- The block after RESET (R160): STATUS, SRES and FCMD zero, no U register with a specified value. The
zeros in `u` are a DESIGN CHOICE no read can see (assumption log 1); no transaction is pending. -/
def State.reset : State where
  u := Vector.replicate 8 0
  written := Vector.replicate 8 false
  sres := 0
  fault := 0
  fcmd := 0
  resetDone := true
  pending := []
  replies := []
  draws := 0

end Sys2Proof.Machine
end

