-- ==== Sys2Proof/Machine/Ops.lean ====
section
/-! DEFINITION. Machine/Ops.lean: the named operations over the registers, taking a fault and returning
from it (60_exceptions.md), the reset of the block, and the register image (R31). -/

namespace Sys2Proof.Machine

/-- What a step answers. -/
abbrev Result := Host.Outcome State Fault Refusal

/-- The cell of `U[r]`. -/
def State.getU (s : State) (r : Reg) : U256 := s.u.get r

/-- Whether `U[r]` has a specified value (R160). -/
def State.isWritten (s : State) (r : Reg) : Bool := s.written.get r

/-- `U[r] <- v`. From here on the register has a specified value (R160). -/
def State.writeU (s : State) (r : Reg) (v : U256) : State :=
  { s with u := s.u.set r v, written := s.written.set r true }

/-- What a read of `U[r]` answers: its value, or, where it has none, the next free value (R38, R160, R170;
93_implementation_defined.md I1). Assumption log 2. -/
def State.readU (s : State) (r : Reg) : U256 :=
  if s.isWritten r then s.getU r else Config.unspecifiedU s.draws

/-- The state after a read of `U[r]`: a read that took a free value uses it up, so that the next such read
takes another. Nothing else changes. Assumption log 3. -/
def State.afterRead (s : State) (r : Reg) : State :=
  if s.isWritten r then s else { s with draws := s.draws + 1 }

/-- `SRES <- v` (R18). -/
def State.writeSres (s : State) (v : Word) : State := { s with sres := v }

/-- The code of IllegalCommand (R140). -/
def illegalCommand : BitVec 4 := 1

/-- The code of DivideByZero (R140). -/
def divideByZero : BitVec 4 := 2

/-- "Faulted": `STATUS.FAULT != 0` (R148). -/
def State.faulted (s : State) : Bool := s.fault != 0

/-- Fault entry (R146): `STATUS.FAULT <- c`, `FCMD <- w`, nothing else. -/
def State.raise (s : State) (c : BitVec 4) (w : Word) : State := { s with fault := c, fcmd := w }

/-- Return from a fault (R150, R130): `STATUS.FAULT <- 0`, nothing else. -/
def State.acknowledge (s : State) : State := { s with fault := 0 }

/-- The RESET of the block (R160). The host's list, what it has read, and the count of free values taken are
not state of the block and stay. Assumption log 21. -/
def State.clear (s : State) : State :=
  { State.reset with pending := s.pending, replies := s.replies, draws := s.draws }

/-- STATUS as CSRRD reads it: `zext_32(FAULT)`, bits 31:4 zero (R19, R129). -/
def State.status (s : State) : Word := s.fault.zeroExtend 32

/-- The host's list is now `p`: how a transaction is taken off it (assumption log 4). -/
def State.withPending (s : State) (p : List Transaction) : State := { s with pending := p }

/-- The host gets a value back (R125, R134). -/
def State.reply (s : State) (r : Reply) : State := { s with replies := s.replies ++ [r] }

/-- The value of an image, little-endian: the sum of `byte[k] * 2^(8k)` (R31, R126). -/
def imageValue (bytes : Image) : U256 :=
  BitVec.ofNat 256 (bytes.toList.foldr (fun byte above => byte.toNat + 2 ^ 8 * above) 0)

/-- The image of a value: `byte[k]` holds bits `[8k + 7 : 8k]` (R31, R127). -/
def imageOf (v : U256) : Image := Vector.ofFn (fun k : Fin 32 => v.extractLsb' (8 * k.val) 8)

end Sys2Proof.Machine
end

