-- ==== Sys2Proof/Machine/Operands.lean ====
section
/-! DEFINITION. Machine/Operands.lean: the operand forms (R52, R53). Every form reads all its sources first,
in the order of the pseudocode, and then writes (R20). -/

namespace Sys2Proof.Machine

/-- The first source, `a = U[rs1]`. -/
def State.operandA (s : State) (rs1 : Reg) : U256 := s.readU rs1

/-- The second source, `b = U[rs2]`, read after the first. -/
def State.operandB (s : State) (rs1 rs2 : Reg) : U256 := (s.afterRead rs1).readU rs2

/-- The state after both sources have been read. -/
def State.afterReads (s : State) (rs1 rs2 : Reg) : State := (s.afterRead rs1).afterRead rs2

/-- Format R3: `U[rd] <- f a b`. -/
def runR3 (f : U256 → U256 → U256) (rd rs1 rs2 : Reg) (s : State) : Result :=
  .next ((s.afterReads rs1 rs2).writeU rd (f (s.operandA rs1) (s.operandB rs1 rs2)))

/-- Format RI: `U[rd] <- f a imm`, the immediate read as an unsigned number (R53). -/
def runRI (f : U256 → Nat → U256) (rd rs1 : Reg) (imm : BitVec 12) (s : State) : Result :=
  .next ((s.afterRead rs1).writeU rd (f (s.operandA rs1) imm.toNat))

/-- Format R2: `U[rd] <- f a`. -/
def runR2 (f : U256 → U256) (rd rs1 : Reg) (s : State) : Result :=
  .next ((s.afterRead rs1).writeU rd (f (s.operandA rs1)))

/-- Format S2: `SRES <- f a b`. -/
def runS2 (f : U256 → U256 → Word) (rs1 rs2 : Reg) (s : State) : Result :=
  .next ((s.afterReads rs1 rs2).writeSres (f (s.operandA rs1) (s.operandB rs1 rs2)))

/-- Format S1: `SRES <- f a`. -/
def runS1 (f : U256 → Word) (rs1 : Reg) (s : State) : Result :=
  .next ((s.afterRead rs1).writeSres (f (s.operandA rs1)))

end Sys2Proof.Machine
end

