-- ==== Sys2Proof/Machine/AddSub.lean ====
section
/-! DEFINITION. Machine/AddSub.lean: ADD and SUB (40_add_sub.md). -/

namespace Sys2Proof.Machine

/-- `(a + b) mod 2^256` (R70): the exact sum, narrowed. -/
def addWrap (a b : U256) : U256 := BitVec.ofNat 256 (a.toNat + b.toNat)

/-- `(a - b) mod 2^256` (R73): the exact difference, narrowed. -/
def subWrap (a b : U256) : U256 := BitVec.ofInt 256 ((a.toNat : Int) - (b.toNat : Int))

/-- ADD (R70). -/
def execAdd (rd rs1 rs2 : Reg) (s : State) : Result := runR3 addWrap rd rs1 rs2 s

/-- SUB (R73): first operand minus second. -/
def execSub (rd rs1 rs2 : Reg) (s : State) : Result := runR3 subWrap rd rs1 rs2 s

end Sys2Proof.Machine
end

