-- ==== Sys2Proof/Machine/Flags.lean ====
section
/-! DEFINITION. Machine/Flags.lean: the block has no flags (R16). What stands in their place are the two scalar
results written to SRES, and the predicates and choices the host reads from it (R117). -/

namespace Sys2Proof.Machine

/-- The compare result as SRES holds it: `sext_32` of -1, 0 or +1 (R18, R115). Which sign means "less" the
spec supplies from general knowledge (93_implementation_defined.md I6; assumption log 10). -/
def compareCode (a b : U256) : Word :=
  if a.toNat < b.toNat then 0xFFFFFFFF else if a = b then 0x00000000 else 0x00000001

/-- `popcnt(v)`: the sum of the 256 bits of `v` (R120). -/
def popcnt (v : U256) : Nat := ((List.range 256).map (fun i => (v.getLsbD i).toNat)).sum

/-- The count as SRES holds it: `zext_32(popcnt(v))` (R18, R120). -/
def popcountCode (v : U256) : Word := BitVec.ofNat 32 (popcnt v)

/-- `eq`: `s = 0` (R117). -/
def sresEq (s : Word) : Bool := s == 0

/-- `neq`: `s != 0` (R117). -/
def sresNeq (s : Word) : Bool := s != 0

/-- `lt`: `s = 0xFFFFFFFF` (R117). -/
def sresLt (s : Word) : Bool := s == 0xFFFFFFFF

/-- `lte`: `s != 1` (R117). -/
def sresLte (s : Word) : Bool := s != 1

/-- `gt`: `s = 1` (R117). -/
def sresGt (s : Word) : Bool := s == 1

/-- `gte`: `s != 0xFFFFFFFF` (R117). -/
def sresGte (s : Word) : Bool := s != 0xFFFFFFFF

/-- `cmp`: `s` itself as a signed 32-bit number (R117). -/
def sresCmp (s : Word) : Int := s.toInt

/-- `min(a, b)` after CMP of `a` with `b`: `a` if `s != 1`, else `b` (R117). -/
def sresMin (s : Word) (a b : U256) : U256 := if s != 1 then a else b

/-- `max(a, b)` after CMP of `a` with `b`: `a` if `s != 0xFFFFFFFF`, else `b` (R117). -/
def sresMax (s : Word) (a b : U256) : U256 := if s != 0xFFFFFFFF then a else b

end Sys2Proof.Machine
end

