-- ==== Sys2Proof/Machine/Compare.lean ====
section
/-! DEFINITION. Machine/Compare.lean: CMP (45_compare.md). -/

namespace Sys2Proof.Machine

/-- CMP (R115): SRES only. -/
def execCmp (rs1 rs2 : Reg) (s : State) : Result := runS2 compareCode rs1 rs2 s

end Sys2Proof.Machine
end

