-- ==== Sys2Proof/Machine/Divmod.lean ====
section
/-! DEFINITION. Machine/Divmod.lean: DIVMOD (42_divmod.md). -/

namespace Sys2Proof.Machine

/-- `floor(a / b)` over the naturals (R85); used only for `b != 0`. -/
def quotient (a b : U256) : U256 := BitVec.ofNat 256 (a.toNat / b.toNat)

/-- `a - q * b` over the naturals (R85); used only for `b != 0`. -/
def remainder (a b : U256) : U256 := BitVec.ofNat 256 (a.toNat - a.toNat / b.toNat * b.toNat)

/-- DIVMOD on operands already read: DivideByZero with nothing written, or both results (R85, R86). `w` is
the command word a fault records (R146). -/
def State.divide (s : State) (w : Word) (rd rd2 : Reg) (a b : U256) : State :=
  if b = 0 then s.raise divideByZero w
  else (s.writeU rd (quotient a b)).writeU rd2 (remainder a b)

/-- DIVMOD (R85). The word a fault records is the command's own, `encode` of it (assumption log 7). With equal
destinations there is no such command: the word is IllegalCommand before any read (R56, R145; log 8). -/
def execDivmod (rd rd2 rs1 rs2 : Reg) (s : State) : Result :=
  .next (if rd = rd2 then s.raise illegalCommand (encode (.divmod rd rd2 rs1 rs2))
    else (s.afterReads rs1 rs2).divide (encode (.divmod rd rd2 rs1 rs2)) rd rd2
      (s.operandA rs1) (s.operandB rs1 rs2))

end Sys2Proof.Machine
end

