-- ==== Sys2Proof/Machine/Logic.lean ====
section
/-! DEFINITION. Machine/Logic.lean: AND, OR, XOR, ANDN, NOT (44_logic.md). -/

namespace Sys2Proof.Machine

/-- AND (R105). -/
def execAnd (rd rs1 rs2 : Reg) (s : State) : Result := runR3 (fun a b => a &&& b) rd rs1 rs2 s

/-- OR (R106). -/
def execOr (rd rs1 rs2 : Reg) (s : State) : Result := runR3 (fun a b => a ||| b) rd rs1 rs2 s

/-- XOR (R107). -/
def execXor (rd rs1 rs2 : Reg) (s : State) : Result := runR3 (fun a b => a ^^^ b) rd rs1 rs2 s

/-- ANDN (R108): the second source is complemented, which the spec supplies from general knowledge
(93_implementation_defined.md I7; assumption log 11). -/
def execAndn (rd rs1 rs2 : Reg) (s : State) : Result := runR3 (fun a b => a &&& ~~~b) rd rs1 rs2 s

/-- NOT (R109): all 256 bits. -/
def execNot (rd rs1 : Reg) (s : State) : Result := runR2 (fun a => ~~~a) rd rs1 s

end Sys2Proof.Machine
end

