-- ==== Sys2Proof/Machine/Mul.lean ====
section
/-! DEFINITION. Machine/Mul.lean: MUL (41_mul.md). -/

namespace Sys2Proof.Machine

/-- `(a * b) mod 2^256` (R80): the exact product, narrowed. -/
def mulWrap (a b : U256) : U256 := BitVec.ofNat 256 (a.toNat * b.toNat)

/-- MUL (R80). -/
def execMul (rd rs1 rs2 : Reg) (s : State) : Result := runR3 mulWrap rd rs1 rs2 s

end Sys2Proof.Machine
end

