-- ==== Sys2Proof/Machine/Popcount.lean ====
section
/-! DEFINITION. Machine/Popcount.lean: POPCNT (46_popcount.md). -/

namespace Sys2Proof.Machine

/-- POPCNT (R120): SRES only. -/
def execPopcnt (rs1 : Reg) (s : State) : Result := runS1 popcountCode rs1 s

end Sys2Proof.Machine
end

