-- ==== Sys2Proof/Machine/Shift.lean ====
section
/-! DEFINITION. Machine/Shift.lean: SHL, SHR, SHLI, SHRI (43_shift.md). The amount is a natural number, never
reduced (R100). -/

namespace Sys2Proof.Machine

/-- Left shift (R95): 0 for `n >= 256`, else `(a * 2^n) mod 2^256`. -/
def shiftLeft (a : U256) (n : Nat) : U256 :=
  if n ≥ 256 then 0 else BitVec.ofNat 256 (a.toNat * 2 ^ n)

/-- Logical right shift (R98): 0 for `n >= 256`, else `a div 2^n`. -/
def shiftRight (a : U256) (n : Nat) : U256 :=
  if n ≥ 256 then 0 else BitVec.ofNat 256 (a.toNat / 2 ^ n)

/-- SHL (R95): the amount is the whole 256-bit value of `U[rs2]`. -/
def execShl (rd rs1 rs2 : Reg) (s : State) : Result := runR3 (fun a n => shiftLeft a n.toNat) rd rs1 rs2 s

/-- SHR (R98): the amount is the whole 256-bit value of `U[rs2]`. -/
def execShr (rd rs1 rs2 : Reg) (s : State) : Result := runR3 (fun a n => shiftRight a n.toNat) rd rs1 rs2 s

/-- SHLI (R96). -/
def execShli (rd rs1 : Reg) (imm : BitVec 12) (s : State) : Result := runRI shiftLeft rd rs1 imm s

/-- SHRI (R101). -/
def execShri (rd rs1 : Reg) (imm : BitVec 12) (s : State) : Result := runRI shiftRight rd rs1 imm s

end Sys2Proof.Machine
end

