-- ==== Sys2Proof/Machine/Transactions.lean ====
section
/-! DEFINITION. Machine/Transactions.lean: what each of the host's six transactions does (47_host_interface.md,
70_reset_and_hazards.md). -/

namespace Sys2Proof.Machine

/-- `LOAD i, bytes` (R126). -/
def performLoad (i : Reg) (bytes : Image) (s : State) : Result := .next (s.writeU i (imageValue bytes))

/-- `STORE i` (R127). A register with no specified value gives the bytes of a free value (I1). -/
def performStore (i : Reg) (s : State) : Result :=
  .next ((s.afterRead i).reply (.image (imageOf (s.readU i))))

/-- `EXEC w` (R128), in the order of R145: dropped while faulted, IllegalCommand for a word that does not
decode, and otherwise the command. -/
def performExec (w : Word) (s : State) : Result :=
  if s.faulted then .next s
  else match decode w with
    | .error _ => .next (s.raise illegalCommand w)
    | .ok i => exec i s

/-- `CSRRD k` (R129). A number above 2 names no register and has no meaning (I4; assumption log 6). -/
def performCsrrd (k : Nat) (s : State) : Result :=
  match k with
  | 0 => .next (s.reply (.csr s.status))
  | 1 => .next (s.reply (.csr s.sres))
  | 2 => .next (s.reply (.csr s.fcmd))
  | k + 3 => .refused (.noSuchCsr (k + 3))

/-- `ACK` (R130). -/
def performAck (s : State) : Result := .next s.acknowledge

/-- `RESET` (R131, R160), accepted in every state (R161). -/
def performReset (s : State) : Result := .next s.clear

/-- A transaction that has a meaning only once the block has been reset (R161; assumption log 5). -/
def onceReset (s : State) (r : Result) : Result := if s.resetDone then r else .refused .beforeFirstReset

/-- One transaction of the host, performed whole (R33). -/
def issue (t : Transaction) (s : State) : Result :=
  match t with
  | .load i bytes => onceReset s (performLoad i bytes s)
  | .store i => onceReset s (performStore i s)
  | .exec w => onceReset s (performExec w s)
  | .csrrd k => onceReset s (performCsrrd k s)
  | .ack => onceReset s (performAck s)
  | .reset => performReset s

/-- What the block does next: the host's next transaction, or nothing where it issues none, since "the block
does nothing except in response to one of them" (R125). Assumption log 4. -/
def performNext (s : State) : Result :=
  match s.pending with
  | [] => .next s
  | t :: rest => issue t (s.withPending rest)

/-- The host offers the word `w` next, to a block that is reset and not faulted, so that it is executed.
Assumption log 13. -/
def State.offer (s : State) (w : Word) : State :=
  { s with pending := .exec w :: s.pending, fault := 0, resetDone := true }

end Sys2Proof.Machine
end

