-- ==== Sys2Proof/Machine/Step.lean ====
section
/-! DEFINITION. Machine/Step.lean: one step of the machine, which is one transaction of the host (R33). -/

namespace Sys2Proof.Machine

/-- One step: the host's next transaction, performed whole. -/
def step (s : State) : Host.Outcome State Fault Refusal := Sys2Proof.Machine.performNext s

/-- The state in which the next transaction is EXEC of the opcode table's word `w`. -/
def State.withFetchWord (s : State) (nbits w : Nat) : State := s.offer (tableWord nbits w)

end Sys2Proof.Machine
end

