-- ==== Sys2Proof/Machine/Assembler.lean ====
section
/-! DEFINITION. Machine/Assembler.lean: the assembler's forms and text (R59), pseudo-instructions (R61), and the written
form of the host's transactions (R60). They are no part of the block, which sees only words and transactions.
Assumption log 19. -/

namespace Sys2Proof.Machine

/-- An assembler line: a command in the operand order of R59 (destinations first), or a pseudo-instruction of R61.
An immediate is the number written after `#`. -/
inductive Asm where
  | add (ud ua ub : Reg)
  | sub (ud ua ub : Reg)
  | mul (ud ua ub : Reg)
  | divmod (uq ur ua ub : Reg)
  | shl (ud ua ub : Reg)
  | shr (ud ua ub : Reg)
  | shli (ud ua : Reg) (n : Nat)
  | shri (ud ua : Reg) (n : Nat)
  | and (ud ua ub : Reg)
  | or (ud ua ub : Reg)
  | xor (ud ua ub : Reg)
  | andn (ud ua ub : Reg)
  | not (ud ua : Reg)
  | cmp (ua ub : Reg)
  | popcnt (ua : Reg)
  | mov (ud ua : Reg)
  | clr (ud : Reg)
  | negate (ud ua : Reg)
  deriving DecidableEq, Repr

/-- The immediate of a line, refused outside 0 to 4095 and never reduced (R59). -/
def asmImmediate (n : Nat) : Option (BitVec 12) := if n ≤ 4095 then some (BitVec.ofNat 12 n) else none

/-- The command of a line, or none where the assembler refuses it: an immediate out of range, or a DIVMOD with
equal destinations (R59). The three pseudo-instructions expand as R61 says. -/
def asmInstr : Asm → Option Instr
  | .add ud ua ub => some (.add ud ua ub)
  | .sub ud ua ub => some (.sub ud ua ub)
  | .mul ud ua ub => some (.mul ud ua ub)
  | .divmod uq ur ua ub => if uq = ur then none else some (.divmod uq ur ua ub)
  | .shl ud ua ub => some (.shl ud ua ub)
  | .shr ud ua ub => some (.shr ud ua ub)
  | .shli ud ua n => (asmImmediate n).map (Instr.shli ud ua)
  | .shri ud ua n => (asmImmediate n).map (Instr.shri ud ua)
  | .and ud ua ub => some (.and ud ua ub)
  | .or ud ua ub => some (.or ud ua ub)
  | .xor ud ua ub => some (.xor ud ua ub)
  | .andn ud ua ub => some (.andn ud ua ub)
  | .not ud ua => some (.not ud ua)
  | .cmp ua ub => some (.cmp ua ub)
  | .popcnt ua => some (.popcnt ua)
  | .mov ud ua => some (.or ud ua ua)
  | .clr ud => some (.xor ud ud ud)
  | .negate ud ua => some (.not ud ua)

/-- The word the assembler emits for a line (R59, R61). -/
def assemble (a : Asm) : Option Word := (asmInstr a).map encode

/-- A register's name, `u0` to `u7` (R10, R59). -/
def regName (r : Reg) : String := "u" ++ toString r.val

/-- Mnemonic and operands, separated as R59's examples are. -/
def asmLine (mnemonic : String) (operands : List String) : String :=
  mnemonic ++ " " ++ ", ".intercalate operands

/-- A line as R59 and R61 write it, in upper case, immediates in decimal. -/
def asmText : Asm → String
  | .add ud ua ub => asmLine "ADD" [regName ud, regName ua, regName ub]
  | .sub ud ua ub => asmLine "SUB" [regName ud, regName ua, regName ub]
  | .mul ud ua ub => asmLine "MUL" [regName ud, regName ua, regName ub]
  | .divmod uq ur ua ub => asmLine "DIVMOD" [regName uq, regName ur, regName ua, regName ub]
  | .shl ud ua ub => asmLine "SHL" [regName ud, regName ua, regName ub]
  | .shr ud ua ub => asmLine "SHR" [regName ud, regName ua, regName ub]
  | .shli ud ua n => asmLine "SHLI" [regName ud, regName ua, "#" ++ toString n]
  | .shri ud ua n => asmLine "SHRI" [regName ud, regName ua, "#" ++ toString n]
  | .and ud ua ub => asmLine "AND" [regName ud, regName ua, regName ub]
  | .or ud ua ub => asmLine "OR" [regName ud, regName ua, regName ub]
  | .xor ud ua ub => asmLine "XOR" [regName ud, regName ua, regName ub]
  | .andn ud ua ub => asmLine "ANDN" [regName ud, regName ua, regName ub]
  | .not ud ua => asmLine "NOT" [regName ud, regName ua]
  | .cmp ua ub => asmLine "CMP" [regName ua, regName ub]
  | .popcnt ua => asmLine "POPCNT" [regName ua]
  | .mov ud ua => asmLine "MOV" [regName ud, regName ua]
  | .clr ud => asmLine "CLR" [regName ud]
  | .negate ud ua => asmLine "NEGATE" [regName ud, regName ua]

/-- The characters with no space at either end. -/
def trimSpaces (cs : List Char) : List Char :=
  (((cs.dropWhile (fun c => c == ' ')).reverse).dropWhile (fun c => c == ' ')).reverse

/-- The pieces between commas. -/
def splitCommas : List Char → List (List Char)
  | [] => [[]]
  | c :: cs =>
    match splitCommas cs with
    | [] => [[c]]
    | piece :: rest => if c == ',' then [] :: piece :: rest else (c :: piece) :: rest

/-- The mnemonic of a line, in upper case, and its operands: "lower case is accepted", and "operands are separated by
commas" (R59). -/
def lineParts (line : List Char) : String × List (List Char) :=
  let cs := trimSpaces line
  let rest := trimSpaces (cs.dropWhile (fun c => c != ' '))
  (String.ofList ((cs.takeWhile (fun c => c != ' ')).map Char.toUpper),
    if rest.isEmpty then [] else (splitCommas rest).map trimSpaces)

/-- A register is written `u0` to `u7` (R59). -/
def readReg : List Char → Option Reg
  | ['u', c] => if '0' ≤ c ∧ c ≤ '7' then some (Fin.ofNat 8 (c.toNat - '0'.toNat)) else none
  | _ => none

/-- A digit of a decimal or hexadecimal number. -/
def readDigit (base : Nat) (c : Char) : Option Nat :=
  if '0' ≤ c ∧ c ≤ '9' then some (c.toNat - '0'.toNat)
  else if base = 16 ∧ 'a' ≤ c ∧ c ≤ 'f' then some (c.toNat - 'a'.toNat + 10)
  else if base = 16 ∧ 'A' ≤ c ∧ c ≤ 'F' then some (c.toNat - 'A'.toNat + 10)
  else none

/-- The number that `value` and the digits after it spell. -/
def readDigits (base : Nat) : Nat → List Char → Option Nat
  | value, [] => some value
  | value, c :: cs =>
    match readDigit base c with
    | some d => readDigits base (base * value + d) cs
    | none => none

/-- A decimal or `0x` hexadecimal number (R59), of one digit at least. -/
def readNumber : List Char → Option Nat
  | [] => none
  | '0' :: 'x' :: c :: cs => readDigits 16 0 (c :: cs)
  | cs => readDigits 10 0 cs

/-- An immediate is written `#n` (R59). Its range is asked by `asmImmediate`. -/
def readImmediate : List Char → Option Nat
  | '#' :: cs => readNumber cs
  | _ => none

/-- The mnemonics of format R3 and their lines. -/
def r3Lines : List (String × (Reg → Reg → Reg → Asm)) :=
  [ ("ADD", .add), ("SUB", .sub), ("MUL", .mul), ("SHL", .shl), ("SHR", .shr), ("AND", .and), ("OR", .or),
    ("XOR", .xor), ("ANDN", .andn) ]

/-- The line a mnemonic and its operands make, destinations first (R59, R61). -/
def asmOfParts (mnemonic : String) : List (List Char) → Option Asm
  | [a] =>
    (readReg a).bind fun ra =>
      if mnemonic == "POPCNT" then some (.popcnt ra) else if mnemonic == "CLR" then some (.clr ra) else none
  | [a, b] =>
    (readReg a).bind fun ra => (readReg b).bind fun rb =>
      if mnemonic == "NOT" then some (.not ra rb) else if mnemonic == "CMP" then some (.cmp ra rb)
      else if mnemonic == "MOV" then some (.mov ra rb) else if mnemonic == "NEGATE" then some (.negate ra rb)
      else none
  | [a, b, c] =>
    (readReg a).bind fun ra => (readReg b).bind fun rb =>
      if mnemonic == "SHLI" then (readImmediate c).map (Asm.shli ra rb)
      else if mnemonic == "SHRI" then (readImmediate c).map (Asm.shri ra rb)
      else (readReg c).bind fun rc => (r3Lines.lookup mnemonic).map (fun line => line ra rb rc)
  | [a, b, c, d] =>
    (readReg a).bind fun ra => (readReg b).bind fun rb => (readReg c).bind fun rc => (readReg d).bind fun rd =>
      if mnemonic == "DIVMOD" then some (.divmod ra rb rc rd) else none
  | _ => none

/-- An assembler line read from its text (R59, R61). -/
def readAsm (line : String) : Option Asm := asmOfParts (lineParts line.toList).1 (lineParts line.toList).2

/-- The word of a command written as text. -/
def assembleText (line : String) : Option Word := (readAsm line).bind assemble

/-- The number of a control register written by its name (R30, R60), or, as V-HOST-5 to V-HOST-7 write it, the number
itself. DESIGN CHOICE: R60 gives the names only (assumption log 22). -/
def readCsr (cs : List Char) : Option Nat :=
  if cs == "STATUS".toList then some 0 else if cs == "SRES".toList then some 1
  else if cs == "FCMD".toList then some 2 else readNumber cs

/-- The word of what stands after `EXEC` (R60): a command, or, as V-HOST-6, V-HOST-7 and the steps 14 and 19 of P6 have
it, a word given as a number of 32 bits at most. DESIGN CHOICE: R60 does not say whether its `<command>` may be a word
(assumption log 22). -/
def readExec (cs : List Char) : Option Word :=
  match readNumber cs with
  | some n => if n < 2 ^ 32 then some (BitVec.ofNat 32 n) else none
  | none => assembleText (String.ofList cs)

/-- A U register's value, refused where it needs more than 256 bits. -/
def readValue (cs : List Char) : Option U256 :=
  (readNumber cs).bind fun n => if n < 2 ^ 256 then some (BitVec.ofNat 256 n) else none

/-- A host transaction as the programs of 95_test_vectors.md write it (R60): `LOAD ui, value`, `STORE ui`,
`EXEC command` or the command alone, `CSRRD STATUS|SRES|FCMD`, `ACK`, `RESET`. That `EXEC` also takes a raw word and
`CSRRD` a number is the model's choice (assumption log 22). -/
def readTransaction (line : String) : Option Transaction :=
  let parts := lineParts line.toList
  match parts.1, parts.2 with
  | "LOAD", [i, v] => (readReg i).bind fun r => (readValue v).map (fun value => .load r (imageOf value))
  | "STORE", [i] => (readReg i).map .store
  | "CSRRD", [k] => (readCsr k).map .csrrd
  | "ACK", [] => some .ack
  | "RESET", [] => some .reset
  | "EXEC", _ => (readExec (trimSpaces ((trimSpaces line.toList).drop 4))).map .exec
  | _, _ => (assembleText line).map .exec

end Sys2Proof.Machine
end

