-- ==== Sys2Proof/Machine/Datapath.lean ====
section
/-! DEFINITION. Machine/Datapath.lean: the reference datapaths, on limbs of `W` bits, `N` of them, limb 0 least
significant (R4, R13). The commands are defined by the architectural rules; that each datapath computes the same
function is stated in Certificates/Slice0/Obligations.lean. Assumption log 17. -/

namespace Sys2Proof.Machine

/-- `limb(v, i)`: bits `W*i + W - 1` to `W*i` of `v` (R13). -/
def limb (W v i : Nat) : Nat := v / 2 ^ (W * i) % 2 ^ W

/-- The limbs of `v`, least significant first (R13). -/
def limbs (W N v : Nat) : List Nat := (List.range N).map (limb W v)

/-- The sum over `i` of `r_i * 2^(W*i)` (R13). -/
def fromLimbs (W : Nat) (rs : List Nat) : Nat := rs.foldr (fun r above => r + 2 ^ W * above) 0

/-- The 256-bit register made of limbs (R13). -/
def registerOf (W : Nat) (rs : List Nat) : U256 := BitVec.ofNat 256 (fromLimbs W rs)

/-- Ripple carry, from the carry in `c` (R72): `t` has `W + 1` bits; the last carry is dropped. -/
def rippleCarry (W : Nat) : Nat → List Nat → List Nat → List Nat
  | c, x :: xs, y :: ys => (x + y + c) % 2 ^ W :: rippleCarry W ((x + y + c) / 2 ^ W) xs ys
  | _, _, _ => []

/-- The adder (R72). -/
def addDatapath (W N : Nat) (a b : U256) : U256 :=
  registerOf W (rippleCarry W 0 (limbs W N a.toNat) (limbs W N b.toNat))

/-- Ripple borrow, from the borrow in `w` (R75): `t` is an integer; the last borrow is dropped. -/
def rippleBorrow (W : Nat) : Int → List Nat → List Nat → List Nat
  | w, x :: xs, y :: ys =>
    (((x : Int) - (y : Int) - w) % 2 ^ W).toNat ::
      rippleBorrow W (if (x : Int) - (y : Int) - w < 0 then 1 else 0) xs ys
  | _, _, _ => []

/-- The subtractor (R75). -/
def subDatapath (W N : Nat) (a b : U256) : U256 :=
  registerOf W (rippleBorrow W 0 (limbs W N a.toNat) (limbs W N b.toNat))

/-- The accumulator of one step of a row: `limb(a, i) * limb(b, j) + r + c`, `2W` bits (R81). -/
def accumulate (W x y r c : Nat) : Nat := (x * y + r + c) % 2 ^ (2 * W)

/-- One row of the multiplier (R81): `x` times the limbs of `b`, added into the result limbs `rs` from the
carry `c`, as far as there are result limbs. The carry out of the last is dropped (truncation). -/
def mulRow (W x : Nat) : Nat → List Nat → List Nat → List Nat
  | c, y :: ys, r :: rs =>
    accumulate W x y r c % 2 ^ W :: mulRow W x (accumulate W x y r c / 2 ^ W) ys rs
  | _, _, rs => rs

/-- The rows of the multiplier (R81): after the row of limb `i` of `a`, result limb `i` is final, and the next
row starts one limb higher. `rs` are the result limbs from `i` up. -/
def mulRows (W : Nat) (bs : List Nat) : List Nat → List Nat → List Nat
  | x :: xs, rs =>
    match mulRow W x 0 bs rs with
    | r :: rest => r :: mulRows W bs xs rest
    | [] => []
  | [], rs => rs

/-- The multiplier (R81): the result limbs start at 0. -/
def mulDatapath (W N : Nat) (a b : U256) : U256 :=
  registerOf W (mulRows W (limbs W N b.toNat) (limbs W N a.toNat) (List.replicate N 0))

/-- One step of the divider for dividend bit `a[i]` (R87): `q` and the partial remainder `R` are 256-bit
working storage. -/
def divStep (a b : U256) (i : Nat) (q R : U256) : U256 × U256 :=
  if b.toNat ≤ ((R <<< 1) ||| (BitVec.ofBool (a.getLsbD i)).zeroExtend 256).toNat then
    (q ||| BitVec.twoPow 256 i, ((R <<< 1) ||| (BitVec.ofBool (a.getLsbD i)).zeroExtend 256) - b)
  else (q, (R <<< 1) ||| (BitVec.ofBool (a.getLsbD i)).zeroExtend 256)

/-- The steps for the bits below `k`, from bit `k - 1` down to bit 0 (R87). -/
def divSteps (a b : U256) : Nat → U256 × U256 → U256 × U256
  | 0, qR => qR
  | i + 1, qR => divSteps a b i (divStep a b i qR.1 qR.2)

/-- The divider for `b != 0`: quotient and remainder (R87). -/
def divDatapath (a b : U256) : U256 × U256 := divSteps a b 256 (0, 0)

/-- `A(k)`: limb `k` of the value, 0 for a `k` outside 0 to `N - 1` (R97, R99). -/
def limbOrZero (W N v : Nat) (k : Int) : Nat := if 0 ≤ k ∧ k < N then limb W v k.toNat else 0

/-- Result limb `i` of the left shift by `s` limbs and `t` bits (R97). -/
def shiftLeftLimb (W N v s t i : Nat) : Nat :=
  (limbOrZero W N v ((i : Int) - s) <<< t % 2 ^ W) |||
    (if t = 0 then 0 else limbOrZero W N v ((i : Int) - s - 1) >>> (W - t))

/-- The left shifter (R97). -/
def shiftLeftDatapath (W N : Nat) (a : U256) (n : Nat) : U256 :=
  if n ≥ 256 then 0
  else registerOf W ((List.range N).map (shiftLeftLimb W N a.toNat (n / W) (n % W)))

/-- Result limb `i` of the right shift by `s` limbs and `t` bits (R99). -/
def shiftRightLimb (W N v s t i : Nat) : Nat :=
  limbOrZero W N v ((i : Int) + s) >>> t |||
    (if t = 0 then 0 else limbOrZero W N v ((i : Int) + s + 1) <<< (W - t) % 2 ^ W)

/-- The right shifter (R99). -/
def shiftRightDatapath (W N : Nat) (a : U256) (n : Nat) : U256 :=
  if n ≥ 256 then 0
  else registerOf W ((List.range N).map (shiftRightLimb W N a.toNat (n / W) (n % W)))

/-- The logic unit (R110): one function of two limbs, limb by limb. -/
def logicDatapath (f : Nat → Nat → Nat) (W N : Nat) (a b : U256) : U256 :=
  registerOf W (List.zipWith f (limbs W N a.toNat) (limbs W N b.toNat))

/-- The complement of a limb, within `W` bits (R110). -/
def limbNot (W x : Nat) : Nat := 2 ^ W - 1 - x

/-- The logic unit's NOT (R110). -/
def notDatapath (W N : Nat) (a : U256) : U256 := registerOf W ((limbs W N a.toNat).map (limbNot W))

/-- The comparator's scan (R116) over limbs given from the most significant down: the first difference decides. -/
def compareScan : List Nat → List Nat → Int
  | x :: xs, y :: ys => if x ≠ y then (if x < y then -1 else 1) else compareScan xs ys
  | _, _ => 0

/-- The comparator (R116). -/
def compareDatapath (W N : Nat) (a b : U256) : Int :=
  compareScan (limbs W N a.toNat).reverse (limbs W N b.toNat).reverse

/-- `popcnt_W`: the number of 1 bits of a limb (R121). -/
def limbPopcnt (W x : Nat) : Nat := ((List.range W).map (fun i => (x.testBit i).toNat)).sum

/-- The population count (R121): the counts of the limbs, added. -/
def popcountDatapath (W N : Nat) (a : U256) : Nat := ((limbs W N a.toNat).map (limbPopcnt W)).sum

end Sys2Proof.Machine
end

