-- ==== Sys2Proof/Machine/Runs.lean ====
section
/-! DEFINITION. Machine/Runs.lean: programs of the host and their runs (R134). -/

namespace Sys2Proof.Machine

/-- A program: what the host issues next, or that it has finished, from how many transactions it has issued and what
they returned: "the choice of each transaction may depend on the values returned by earlier ones" (R134). -/
abbrev Program := Nat → List Reply → Option Transaction

/-- The run of a program from `s`, for `fuel` transactions at most, `issued` having been issued before. It ends when
the host has issued its last transaction. -/
def runProgram (program : Program) : (fuel issued : Nat) → (s : State) → Result
  | 0, _, s => .next s
  | fuel + 1, issued, s =>
    match program issued s.replies with
    | none => .next s
    | some x =>
      match step (s.withPending [x]) with
      | .next t => runProgram program fuel (issued + 1) t
      | .fault f => .fault f
      | .refused r => .refused r

/-- What the final state of a run shows for `U[r]`: its value, or that it has no specified value. DESIGN CHOICE: R134
does not say what its tuple holds for such a register (R160; 93_implementation_defined.md I1; assumption log 23). -/
def State.shownU (s : State) (r : Reg) : Option U256 := if s.isWritten r then some (s.getU r) else none

/-- The final state of a run: the tuple `(U, SRES, STATUS, FCMD)`, "together with everything the host read back"
(R134). A U register with no specified value shows none (assumption log 23). -/
def State.final (s : State) : Vector (Option U256) 8 × Word × Word × Word × List Reply :=
  (Vector.ofFn s.shownU, s.sres, s.status, s.fcmd, s.replies)

/-- The next transaction is an EXEC that will be dropped (R148): none is before the first RESET, where an EXEC has no
meaning (R161). -/
def State.dropsNext (s : State) : Bool :=
  match s.pending with
  | .exec _ :: _ => s.resetDone && s.faulted
  | _ => false

/-- Some EXEC is dropped within the next `k` steps. -/
def State.dropsWithin : Nat → State → Bool
  | 0, _ => false
  | k + 1, s =>
    s.dropsNext ||
      match step s with
      | .next t => State.dropsWithin k t
      | .fault _ => false
      | .refused _ => false

/-- Whether the run of the next `k` transactions went wrong: an EXEC was dropped in it, or it ends faulted (R134).
DESIGN CHOICE: a run that meets a transaction with no meaning (CSRRD of 3 or more, R129; any but RESET before the first
RESET, R161) has no end, and the answer for it is none, neither wrong nor right (assumption log 24). -/
def State.wentWrong (k : Nat) (s : State) : Option Bool :=
  match Sys2Proof.core.run k s with
  | .next t => some (s.dropsWithin k || t.faulted)
  | .fault _ => none
  | .refused _ => none

end Sys2Proof.Machine
end

