-- ==== Sys2Proof/Safety.lean ====
section
/-! DEFINITION. Safety.lean: the terms the claims use: frames, the invariant, illegal words. -/

namespace Sys2Proof.Machine

/-- `v` is a value that a read of `U[r]` may answer: the register's value where it has one, and any value where it
has none (R38, R160). -/
def State.Reads (s : State) (r : Reg) (v : U256) : Prop := s.isWritten r = true → v = s.getU r

/-- Frame: every U register outside `ds`, and whether it has a specified value, is as before (R14). -/
def State.KeepsRegistersBut (ds : List Reg) (s t : State) : Prop :=
  ∀ q, q ∉ ds → t.getU q = s.getU q ∧ t.isWritten q = s.isWritten q

/-- Frame: STATUS, FCMD, the RESET mark, the host's list and what it has read back are as before. -/
def State.KeepsControl (s t : State) : Prop :=
  t.fault = s.fault ∧ t.fcmd = s.fcmd ∧ t.resetDone = s.resetDone ∧ t.pending = s.pending ∧ t.replies = s.replies

/-- Frame of a command that writes the U registers `ds` and nothing else (R14, R16). The free values it may have
taken (`draws`) are no state of the block. -/
def State.OnlyWrites (ds : List Reg) (s t : State) : Prop :=
  State.KeepsRegistersBut ds s t ∧ t.sres = s.sres ∧ State.KeepsControl s t

/-- Frame of a command that writes SRES and nothing else (R115, R120). -/
def State.OnlyWritesSres (s t : State) : Prop := State.KeepsRegistersBut [] s t ∧ State.KeepsControl s t

/-- The block has been reset, and `t` is the host's next transaction, `rest` those after it. -/
def State.Offered (s : State) (t : Transaction) (rest : List Transaction) : Prop :=
  s.resetDone = true ∧ s.pending = t :: rest

/-- The fields a command's format does not use, as bits of the word, by opcode (R52). -/
def mbzBits (op : BitVec 8) : Word :=
  if op = 0x04 then 0x00000FFF
  else if op = 0x07 ∨ op = 0x08 then 0x0003F000
  else if op = 0x0D then 0x0003FFFF
  else if op = 0x0E then 0x00E07FFF
  else if op = 0x0F then 0x00E3FFFF
  else 0x00007FFF

/-- The words R141 lists: a reserved opcode, a must-be-zero field that is not zero, or a DIVMOD with `rd = rd2`. -/
abbrev IllegalWord (w : Word) : Prop :=
  opField w = 0 ∨ (opField w).toNat ≥ 0x10 ∨ w &&& mbzBits (opField w) ≠ 0 ∨
    (opField w = 0x04 ∧ rdField w = rd2Field w)

/-- The immediate of a command, 0 where its format has none (R52, R53). -/
def immediate : Instr → Nat
  | .shli _ _ imm => imm.toNat
  | .shri _ _ imm => imm.toNat
  | .add _ _ _ => 0
  | .sub _ _ _ => 0
  | .mul _ _ _ => 0
  | .divmod _ _ _ _ => 0
  | .shl _ _ _ => 0
  | .shr _ _ _ => 0
  | .and _ _ _ => 0
  | .or _ _ _ => 0
  | .xor _ _ _ => 0
  | .andn _ _ _ => 0
  | .not _ _ => 0
  | .cmp _ _ => 0
  | .popcnt _ => 0

/-- The command divides by zero in `s` (R142): a DIVMOD whose divisor, as read, is 0. -/
def State.dividesByZero (s : State) : Instr → Prop
  | .divmod _ _ rs1 rs2 => s.operandB rs1 rs2 = 0
  | _ => False

/-- What every reachable state of the block keeps: FAULT is 0, 1 or 2 (R19); SRES holds a compare result or a count
(R18); FCMD holds an illegal word after IllegalCommand, a DIVMOD after DivideByZero (R140, R146), and never the word
of a command that cannot fault (R21, R142). -/
structure State.Inv (s : State) : Prop where
  faultCode : s.fault = 0 ∨ s.fault = illegalCommand ∨ s.fault = divideByZero
  sresRange : s.sres = 0xFFFFFFFF ∨ s.sres.toNat ≤ 256
  illegalWord : s.fault = illegalCommand → ∃ e, decode s.fcmd = .error e
  divmodWord : s.fault = divideByZero → ∃ rd rd2 rs1 rs2, decode s.fcmd = .ok (.divmod rd rd2 rs1 rs2)
  faultingWord : ∀ i, decode s.fcmd = .ok i → ∃ rd rd2 rs1 rs2, i = .divmod rd rd2 rs1 rs2

end Sys2Proof.Machine
end

