-- ==== Sys2Proof/Certificates/Slice0/Obligations.lean ====
section
/-! DEFINITION. Certificates/Slice0/Obligations.lean: the statements about the block, in the order of
OBLIGATIONS.json. -/

open Sys2Proof Sys2Proof.Machine

namespace Sys2Proof.Claims

/-- A command of format R3 runs from every state: its word, its result as a number, and its frame. `f` gives the
number written from the two numbers read. -/
def R3Completes (mk : Reg → Reg → Reg → Instr) (base : Word) (f : Nat → Nat → Nat) : Prop :=
  ∀ (s : State) (rd rs1 rs2 : Reg),
    encode (mk rd rs1 rs2) =
      base ||| BitVec.ofNat 32 rd.val <<< 21 ||| BitVec.ofNat 32 rs1.val <<< 18 ||| BitVec.ofNat 32 rs2.val <<< 15 ∧
    ∃ a b t, s.Reads rs1 a ∧ s.Reads rs2 b ∧ exec (mk rd rs1 rs2) s = .next t ∧
      (t.getU rd).toNat = f a.toNat b.toNat ∧ t.isWritten rd = true ∧ State.OnlyWrites [rd] s t

/-- A command of format R3 that works bit by bit: bit `k` of the result from bit `k` of each source. -/
def R3Bitwise (mk : Reg → Reg → Reg → Instr) (base : Word) (f : Bool → Bool → Bool) : Prop :=
  ∀ (s : State) (rd rs1 rs2 : Reg),
    encode (mk rd rs1 rs2) =
      base ||| BitVec.ofNat 32 rd.val <<< 21 ||| BitVec.ofNat 32 rs1.val <<< 18 ||| BitVec.ofNat 32 rs2.val <<< 15 ∧
    ∃ a b t, s.Reads rs1 a ∧ s.Reads rs2 b ∧ exec (mk rd rs1 rs2) s = .next t ∧
      (∀ k, k < 256 → (t.getU rd).getLsbD k = f (a.getLsbD k) (b.getLsbD k)) ∧
      t.isWritten rd = true ∧ State.OnlyWrites [rd] s t

/-- A command of format RI runs from every state: its word, its result as a number, and its frame. -/
def RICompletes (mk : Reg → Reg → BitVec 12 → Instr) (base : Word) (f : Nat → Nat → Nat) : Prop :=
  ∀ (s : State) (rd rs1 : Reg) (imm : BitVec 12),
    encode (mk rd rs1 imm) =
      base ||| BitVec.ofNat 32 rd.val <<< 21 ||| BitVec.ofNat 32 rs1.val <<< 18 ||| imm.zeroExtend 32 ∧
    ∃ a t, s.Reads rs1 a ∧ exec (mk rd rs1 imm) s = .next t ∧
      (t.getU rd).toNat = f a.toNat imm.toNat ∧ t.isWritten rd = true ∧ State.OnlyWrites [rd] s t

end Sys2Proof.Claims

/-! ### The encoding -/

/-- The worked encodings of R59 and one illegal word of each kind (R55, R56, R57). -/
def Obligations.WorkedEncodingsDecode : Prop :=
  decode 0x01408000 = .ok (.add 2 0 1) ∧ decode 0x0460C000 = .ok (.divmod 3 4 0 1) ∧
  decode 0x072400FF = .ok (.shli 1 1 255) ∧ decode 0x0D200000 = .ok (.not 1 0) ∧
  decode 0x0E080000 = .ok (.cmp 2 0) ∧ decode 0x0F140000 = .ok (.popcnt 5) ∧
  decode 0x01408001 = .error .mustBeZero ∧ decode 0x0460B000 = .error .sameDestinations ∧
  decode 0x00000000 = .error .reservedOpcode ∧ decode 0xFFFFFFFF = .error .reservedOpcode

/-- Decoding the word of a well-formed command gives the command back, every operand at every value. -/
def Obligations.DecodeInvertsEncode : Prop :=
  ∀ i : Instr, i.wellFormed = true → decode (encode i) = .ok i

/-- A word that decodes is the word of the command it decodes to, which is well formed: no bit is a don't-care. -/
def Obligations.EncodeInvertsDecode : Prop :=
  ∀ (w : Word) (i : Instr), decode w = .ok i → encode i = w ∧ i.wellFormed = true

/-- R54: a word is the command of a row exactly when it matches the row under its mask and, for DIVMOD, names two
destinations; no word matches two rows; every other word is illegal. -/
def Obligations.DecodeFollowsOpcodeMap : Prop :=
  (∀ row ∈ opcodeMap, ∀ w : Word,
    (∃ i, decode w = .ok i ∧ i.opcode = row.1) ↔
      (w &&& row.2.2 = row.2.1 ∧ (row.1 = 0x04 → rdField w ≠ rd2Field w))) ∧
  (∀ row ∈ opcodeMap, ∀ row' ∈ opcodeMap, ∀ w : Word,
    w &&& row.2.2 = row.2.1 → w &&& row'.2.2 = row'.2.1 → row = row') ∧
  (∀ w : Word, (∀ row ∈ opcodeMap, w &&& row.2.2 ≠ row.2.1) → ∃ e, decode w = .error e)

/-- R141: EXEC of an illegal word raises IllegalCommand and changes nothing else, reading no register (no free value
is taken); every other word decodes. -/
def Obligations.IllegalWordsRaiseIllegalCommand : Prop :=
  ∀ (s : State) (w : Word) (rest : List Transaction), s.Offered (.exec w) rest → s.fault = 0 →
    (IllegalWord w → step s = .next { s with pending := rest, fault := 1, fcmd := w }) ∧
    (¬ IllegalWord w → ∃ i, decode w = .ok i)

/-! ### The step, the faults, and the host's transactions -/

/-- A step whose transaction is EXEC of a word that decodes to a well-formed command, the block not faulted, is `exec`
of that command; the transaction is taken off the host's list first, and nothing else stands around `exec`. -/
def Obligations.StepRunsDecodedCommand : Prop :=
  ∀ (s : State) (w : Word) (i : Instr) (rest : List Transaction), s.Offered (.exec w) rest → s.fault = 0 →
    decode w = .ok i → i.wellFormed = true → step s = exec i (s.withPending rest)

/-- R148: while faulted every EXEC changes no state at all, whatever its word, so that FAULT and FCMD stay; LOAD, STORE,
CSRRD and ACK are performed: LOAD writes its register, STORE and CSRRD answer and leave FAULT, ACK clears it. -/
def Obligations.ExecIsDroppedWhileFaulted : Prop :=
  ∀ (s : State) (rest : List Transaction), s.fault ≠ 0 →
    (∀ w, s.Offered (.exec w) rest → step s = .next (s.withPending rest)) ∧
    (∀ i bytes, s.Offered (.load i bytes) rest →
      step s = .next { s.writeU i (imageValue bytes) with pending := rest }) ∧
    (∀ i, s.Offered (.store i) rest → ∃ t v, s.Reads i v ∧ step s = .next t ∧
      t.replies = s.replies ++ [.image (imageOf v)] ∧ t.fault = s.fault) ∧
    (∀ k, k ≤ 2 → s.Offered (.csrrd k) rest → ∃ v, (k = 0 → v = s.status) ∧ (k = 1 → v = s.sres) ∧
      (k = 2 → v = s.fcmd) ∧ step s = .next { s with pending := rest, replies := s.replies ++ [.csr v] }) ∧
    (s.Offered .ack rest → step s = .next { s with pending := rest, fault := 0 })

/-- R145: one EXEC reports at most one fault: none while faulted; else IllegalCommand for an illegal word; else
DivideByZero for a DIVMOD whose divisor, as read, is 0; else none. -/
def Obligations.OneFaultPerExecByPriority : Prop :=
  ∀ (s : State) (w : Word) (rest : List Transaction), s.Offered (.exec w) rest →
    ∃ t, step s = .next t ∧
      (s.fault ≠ 0 → t = s.withPending rest) ∧
      (s.fault = 0 → (∃ e, decode w = .error e) → t.fault = 1) ∧
      (∀ i, s.fault = 0 → decode w = .ok i → s.dividesByZero i → t.fault = 2) ∧
      (∀ i, s.fault = 0 → decode w = .ok i → ¬ s.dividesByZero i → t.fault = 0)

/-- R146: an EXEC that raises a fault writes its code and the whole word, and nothing else. -/
def Obligations.FaultEntryRecordsCodeAndWord : Prop :=
  ∀ (s t : State) (w : Word) (rest : List Transaction), s.Offered (.exec w) rest → s.fault = 0 →
    step s = .next t → t.fault ≠ 0 →
    (t.fault = 1 ∨ t.fault = 2) ∧ t.fcmd = w ∧ State.KeepsRegistersBut [] s t ∧ t.sres = s.sres ∧
    t.resetDone = s.resetDone ∧ t.pending = rest ∧ t.replies = s.replies

/-- R130: ACK clears FAULT and nothing else, changes nothing where it was 0, and the block executes commands again
from the next EXEC. -/
def Obligations.AckReturnsFromFault : Prop :=
  ∀ (s : State) (rest : List Transaction), s.Offered .ack rest →
    step s = .next { s with pending := rest, fault := 0 } ∧
    (s.fault = 0 → step s = .next (s.withPending rest)) ∧
    (∀ (t : State) (w : Word) (i : Instr) (rest' : List Transaction), step s = .next t →
      rest = .exec w :: rest' → decode w = .ok i → step t = exec i (t.withPending rest'))

/-- R19: FAULT is set from 0 only by an EXEC, to 1 or 2, and goes back to 0 only by ACK or RESET; it never goes from
one nonzero code to another; as STATUS is read, bits 3:0 are FAULT and bits 31:4 are 0. -/
def Obligations.FaultChangesOnlyBetweenZeroAndOneCode : Prop :=
  (∀ s t : State, step s = .next t → t.fault ≠ s.fault →
    (s.fault = 0 ∧ (t.fault = 1 ∨ t.fault = 2) ∧ ∃ w rest, s.pending = .exec w :: rest) ∨
    (t.fault = 0 ∧ ∃ rest, s.pending = .ack :: rest ∨ s.pending = .reset :: rest)) ∧
  (∀ s : State, s.status.extractLsb' 0 4 = s.fault ∧ s.status.extractLsb' 4 28 = 0) ∧
  State.reset.fault = 0

/-- R129: CSRRD 0, 1 and 2 return STATUS, SRES and FCMD and change no state, faulted or not. (A higher number names no
register: `RefusedTransactionsStopByName`.) -/
def Obligations.CsrrdReturnsControlRegister : Prop :=
  ∀ (s : State) (k : Nat) (rest : List Transaction), s.Offered (.csrrd k) rest →
    (k = 0 → step s = .next { s with pending := rest, replies := s.replies ++ [.csr (s.fault.zeroExtend 32)] }) ∧
    (k = 1 → step s = .next { s with pending := rest, replies := s.replies ++ [.csr s.sres] }) ∧
    (k = 2 → step s = .next { s with pending := rest, replies := s.replies ++ [.csr s.fcmd] })

/-- R126: LOAD writes the whole register from the little-endian image and nothing else, faulted or not; after it the
register has a specified value. -/
def Obligations.LoadWritesWholeRegister : Prop :=
  ∀ (s : State) (i : Reg) (bytes : Image) (rest : List Transaction), s.Offered (.load i bytes) rest →
    ∃ t, step s = .next t ∧
      (t.getU i).toNat = ((List.finRange 32).map (fun k => (bytes.get k).toNat * 2 ^ (8 * k.val))).sum ∧
      t.isWritten i = true ∧ State.KeepsRegistersBut [i] s t ∧ t.sres = s.sres ∧ t.fault = s.fault ∧
      t.fcmd = s.fcmd ∧ t.resetDone = true ∧ t.pending = rest ∧ t.replies = s.replies ∧ t.draws = s.draws

/-- R127: STORE returns 32 bytes, byte k bits 8k+7 to 8k of the register, and changes no state, faulted or not; a STORE
after a LOAD, from any later state in which the register still holds what it was loaded with, returns the image loaded;
no step changes bytes already returned. -/
def Obligations.StoreReturnsLittleEndianImage : Prop :=
  (∀ (s : State) (i : Reg) (rest : List Transaction), s.Offered (.store i) rest →
    ∃ t bytes v, s.Reads i v ∧ step s = .next t ∧ t.replies = s.replies ++ [.image bytes] ∧
      (∀ k : Fin 32, bytes.get k = v.extractLsb' (8 * k.val) 8) ∧
      State.KeepsRegistersBut [] s t ∧ t.sres = s.sres ∧ t.fault = s.fault ∧ t.fcmd = s.fcmd ∧
      t.resetDone = s.resetDone ∧ t.pending = rest) ∧
  (∀ (s t u : State) (i : Reg) (bytes : Image) (rest rest' : List Transaction),
    s.Offered (.load i bytes) rest → step s = .next t → u.Offered (.store i) rest' →
    u.isWritten i = true → u.getU i = t.getU i →
    step u = .next { u with pending := rest', replies := u.replies ++ [.image bytes] }) ∧
  (∀ s t : State, step s = .next t → ∃ more, t.replies = s.replies ++ more)

/-- R160: RESET leaves STATUS, SRES and FCMD zero and no U register with a specified value, as `State.reset` does; and
a register gets one only by a LOAD into it or by a command that names it as a destination and completes. -/
def Obligations.ResetLeavesStatedValues : Prop :=
  (∀ (s : State) (rest : List Transaction), s.pending = .reset :: rest →
    ∃ t, step s = .next t ∧ t.status = 0 ∧ t.sres = 0 ∧ t.fcmd = 0 ∧ (∀ q, t.isWritten q = false) ∧
      t.resetDone = true ∧ t.pending = rest) ∧
  (State.reset.status = 0 ∧ State.reset.sres = 0 ∧ State.reset.fcmd = 0 ∧ ∀ q, State.reset.isWritten q = false) ∧
  (∀ (s t : State) (q : Reg), step s = .next t → s.isWritten q = false → t.isWritten q = true →
    (∃ bytes rest, s.pending = .load q bytes :: rest) ∨
    (∃ w i rest, s.pending = .exec w :: rest ∧ decode w = .ok i ∧ q ∈ i.dests ∧ s.fault = 0 ∧ t.fault = 0))

/-- R131: RESET is accepted in every state and leaves the reset state of R160, and no other transaction takes a
register's specified value away. -/
def Obligations.OnlyResetMakesRegistersUnspecified : Prop :=
  (∀ (s : State) (rest : List Transaction), s.pending = .reset :: rest →
    ∃ t, step s = .next t ∧ t.fault = 0 ∧ t.sres = 0 ∧ t.fcmd = 0 ∧ ∀ q, t.isWritten q = false) ∧
  (∀ (s t : State) (q : Reg), step s = .next t → s.isWritten q = true → t.isWritten q = false →
    ∃ rest, s.pending = .reset :: rest)

/-- Where a transaction has no meaning the step stops under a name: before the first RESET after power-up every
transaction but RESET (R161, I8), and CSRRD of 3 or more (R129, I4). The names are the model's (assumption log 5 and
6). RESET itself is accepted in every state. -/
def Obligations.RefusedTransactionsStopByName : Prop :=
  (∀ (s : State) (rest : List Transaction), s.pending = .reset :: rest → ∃ t, step s = .next t) ∧
  (∀ (s : State) (t : Transaction) (rest : List Transaction), s.resetDone = false → s.pending = t :: rest →
    t ≠ .reset → step s = .refused .beforeFirstReset) ∧
  (∀ (s : State) (k : Nat) (rest : List Transaction), s.Offered (.csrrd k) rest → k ≥ 3 →
    step s = .refused (.noSuchCsr k))

/-- The model's choice for registers with no specified value (assumption log 2 and 3, after I1): a read of one answers
a free value and uses it up, so that two reads take two; a read of a register with a value answers it and takes none;
a command whose sources all have values takes none. -/
def Obligations.UnwrittenReadsAreFreshFreeValues : Prop :=
  (∀ (s : State) (r : Reg), s.isWritten r = true → s.readU r = s.getU r ∧ s.afterRead r = s) ∧
  (∀ (s : State) (r : Reg), s.isWritten r = false →
    s.readU r = Config.unspecifiedU s.draws ∧ s.afterRead r = { s with draws := s.draws + 1 }) ∧
  (∀ (s t : State) (rd r : Reg), s.isWritten r = false → exec (.xor rd r r) s = .next t →
    t.getU rd = Config.unspecifiedU s.draws ^^^ Config.unspecifiedU (s.draws + 1)) ∧
  (∀ (s t : State) (i : Instr), (∀ r ∈ i.sources, s.isWritten r = true) → exec i s = .next t → t.draws = s.draws)

/-- R125, the column "returns": a step gives the host one value for a STORE or a CSRRD, and none otherwise; what it has
read back is never changed; and with no transaction of the host's the block does nothing. -/
def Obligations.OnlyStoreAndCsrrdReturnValues : Prop :=
  (∀ s t : State, step s = .next t →
    ((∃ r, t.replies = s.replies ++ [r]) ↔
      (∃ i rest, s.pending = .store i :: rest) ∨ (∃ k rest, s.pending = .csrrd k :: rest)) ∧
    ((∃ r, t.replies = s.replies ++ [r]) ∨ t.replies = s.replies)) ∧
  (∀ s : State, s.pending = [] → step s = .next s)

/-- R18: only CMP, POPCNT and RESET write SRES; CMP writes the compare result, -1, 0 or 1,
and POPCNT the count, 0 to 256; it is 0 after RESET. -/
def Obligations.SresWrittenOnlyByCmpPopcntReset : Prop :=
  (∀ s t : State, step s = .next t → t.sres ≠ s.sres →
    (∃ rest, s.pending = .reset :: rest) ∨
    (∃ w rest, s.pending = .exec w :: rest ∧ s.fault = 0 ∧
      ((∃ rs1 rs2, decode w = .ok (.cmp rs1 rs2)) ∨ (∃ rs1, decode w = .ok (.popcnt rs1))))) ∧
  (∀ (s : State) (rs1 rs2 : Reg), ∃ a b t c, s.Reads rs1 a ∧ s.Reads rs2 b ∧ exec (.cmp rs1 rs2) s = .next t ∧
    t.sres = BitVec.ofInt 32 c ∧ (c = -1 ∨ c = 0 ∨ c = 1) ∧ (c = 0 ↔ a = b)) ∧
  (∀ (s : State) (rs1 : Reg), ∃ a t, s.Reads rs1 a ∧ exec (.popcnt rs1) s = .next t ∧
    t.sres = BitVec.ofNat 32 (popcnt a) ∧ t.sres.toNat ≤ 256) ∧
  (∀ (s t : State) (rest : List Transaction), s.pending = .reset :: rest → step s = .next t → t.sres = 0) ∧
  State.reset.sres = 0

/-- R21: FCMD changes only when a command faults, to the whole word of that EXEC, or by RESET, to 0; ACK leaves it. -/
def Obligations.FcmdKeepsLastFaultingWord : Prop :=
  (∀ s t : State, step s = .next t → t.fcmd ≠ s.fcmd →
    (∃ w rest, s.pending = .exec w :: rest ∧ s.fault = 0 ∧ t.fault ≠ 0 ∧ t.fcmd = w) ∨
    (∃ rest, s.pending = .reset :: rest ∧ t.fcmd = 0)) ∧
  (∀ (s t : State) (w : Word) (rest : List Transaction), s.pending = .exec w :: rest → step s = .next t →
    s.fault = 0 → t.fault ≠ 0 → t.fcmd = w) ∧
  State.reset.fcmd = 0

/-- R14: a command leaves every register that is not one of its destinations as it was, a source that is no
destination among them; only CMP and POPCNT write SRES, and only DIVMOD can write FAULT and FCMD; a command that faults,
and one that is dropped, writes no U register and not SRES. -/
def Obligations.CommandsWriteOnlyTheirDestinations : Prop :=
  (∀ (s t : State) (i : Instr), exec i s = .next t → State.KeepsRegistersBut i.dests s t ∧
    (i.opcode ≠ 0x0E → i.opcode ≠ 0x0F → t.sres = s.sres) ∧
    (i.opcode ≠ 0x04 → t.fault = s.fault ∧ t.fcmd = s.fcmd) ∧
    t.resetDone = s.resetDone ∧ t.pending = s.pending ∧ t.replies = s.replies) ∧
  (∀ (s t : State) (w : Word) (rest : List Transaction), s.Offered (.exec w) rest → step s = .next t →
    t.fault ≠ 0 → State.KeepsRegistersBut [] s t ∧ t.sres = s.sres)

/-- R20: two commands of one operation and one immediate, whose sources hold the same values, give the same results
whatever registers their fields name: whether or not a destination is a source, and whether or not the two sources are
one register. -/
def Obligations.ResultIndependentOfRegisterOverlap : Prop :=
  ∀ (s t t' : State) (i j : Instr), i.opcode = j.opcode → immediate i = immediate j →
    i.wellFormed = true → j.wellFormed = true →
    (∀ r ∈ i.sources, s.isWritten r = true) → (∀ r ∈ j.sources, s.isWritten r = true) →
    i.sources.map s.getU = j.sources.map s.getU → s.fault = 0 →
    exec i s = .next t → exec j s = .next t' →
    t.fault = t'.fault ∧ t.sres = t'.sres ∧ (t.fault = 0 → i.dests.map t.getU = j.dests.map t'.getU)

/-! ### The commands -/

/-- R70. -/
def Obligations.AddWritesSumModulo : Prop := Claims.R3Completes .add 0x01000000 (fun a b => (a + b) % 2 ^ 256)

/-- R73: the difference of integers, modulo 2^256. -/
def Obligations.SubWritesDifferenceModulo : Prop :=
  Claims.R3Completes .sub 0x02000000 (fun a b => (((a : Int) - (b : Int)) % 2 ^ 256).toNat)

/-- R80. -/
def Obligations.MulWritesLowHalfOfProduct : Prop :=
  Claims.R3Completes .mul 0x03000000 (fun a b => (a * b) % 2 ^ 256)

/-- R85: with two destinations and a divisor that is not 0 as read, the exact quotient and remainder and nothing else;
with a divisor that is 0, DivideByZero and no register written; the command's word, which with one destination is
illegal. -/
def Obligations.DivmodWritesQuotientAndRemainder : Prop :=
  (∀ rd rd2 rs1 rs2 : Reg, encode (.divmod rd rd2 rs1 rs2) =
    0x04000000#32 ||| BitVec.ofNat 32 rd.val <<< 21 ||| BitVec.ofNat 32 rs1.val <<< 18 |||
      BitVec.ofNat 32 rs2.val <<< 15 ||| BitVec.ofNat 32 rd2.val <<< 12) ∧
  (∀ (s : State) (rd rd2 rs1 rs2 : Reg), rd ≠ rd2 → s.operandB rs1 rs2 ≠ 0 →
    ∃ a b t, s.Reads rs1 a ∧ s.Reads rs2 b ∧ b = s.operandB rs1 rs2 ∧
      exec (.divmod rd rd2 rs1 rs2) s = .next t ∧ (t.getU rd).toNat = a.toNat / b.toNat ∧
      (t.getU rd2).toNat = a.toNat - a.toNat / b.toNat * b.toNat ∧
      t.isWritten rd = true ∧ t.isWritten rd2 = true ∧ State.OnlyWrites [rd, rd2] s t) ∧
  (∀ (s : State) (rd rd2 rs1 rs2 : Reg), rd ≠ rd2 → s.operandB rs1 rs2 = 0 →
    ∃ t, exec (.divmod rd rd2 rs1 rs2) s = .next t ∧ t.fault = 2 ∧ State.KeepsRegistersBut [] s t ∧
      t.sres = s.sres) ∧
  (∀ rd rs1 rs2 : Reg, ∃ e, decode (encode (.divmod rd rd rs1 rs2)) = .error e)

/-- R86: a divisor that is 0 as read, whatever the dividend, raises DivideByZero and writes nothing; a register that
holds 0 is read as 0. -/
def Obligations.DivmodByZeroWritesNothing : Prop :=
  (∀ (s : State) (rs1 rs2 : Reg), s.isWritten rs2 = true → s.getU rs2 = 0 → s.operandB rs1 rs2 = 0) ∧
  (∀ (s : State) (rd rd2 rs1 rs2 : Reg), rd ≠ rd2 → s.operandB rs1 rs2 = 0 →
    ∃ t, exec (.divmod rd rd2 rs1 rs2) s = .next t ∧ t.fault = 2 ∧ t.fcmd = encode (.divmod rd rd2 rs1 rs2) ∧
      State.KeepsRegistersBut [] s t ∧ t.sres = s.sres ∧ t.resetDone = s.resetDone ∧ t.pending = s.pending ∧
      t.replies = s.replies)

/-- R56: a DIVMOD with equal destinations is IllegalCommand, even with a zero divisor, and no other command has a
constraint between its fields. That `exec` of the syntax tree itself does so is assumption log 8. -/
def Obligations.EqualDestinationsAreIllegal : Prop :=
  (∀ (s : State) (w : Word) (rest : List Transaction), s.Offered (.exec w) rest → s.fault = 0 →
    opField w = 0x04 → rdField w = rd2Field w →
    step s = .next { s with pending := rest, fault := 1, fcmd := w }) ∧
  (∀ (s : State) (rd rs1 rs2 : Reg), exec (.divmod rd rd rs1 rs2) s =
    .next { s with fault := 1, fcmd := encode (.divmod rd rd rs1 rs2) }) ∧
  (∀ i : Instr, i.wellFormed = false → ∃ rd rs1 rs2, i = .divmod rd rd rs1 rs2)

/-- R95. -/
def Obligations.ShlShiftsLeftByRegister : Prop :=
  Claims.R3Completes .shl 0x05000000 (fun a n => if n ≥ 256 then 0 else a * 2 ^ n % 2 ^ 256)

/-- R98. -/
def Obligations.ShrShiftsRightByRegister : Prop :=
  Claims.R3Completes .shr 0x06000000 (fun a n => if n ≥ 256 then 0 else a / 2 ^ n)

/-- R96. -/
def Obligations.ShliShiftsLeftByImmediate : Prop :=
  Claims.RICompletes .shli 0x07000000 (fun a n => if n ≥ 256 then 0 else a * 2 ^ n % 2 ^ 256)

/-- R101. -/
def Obligations.ShriShiftsRightByImmediate : Prop :=
  Claims.RICompletes .shri 0x08000000 (fun a n => if n ≥ 256 then 0 else a / 2 ^ n)

/-- R105. -/
def Obligations.AndIsBitwise : Prop := Claims.R3Bitwise .and 0x09000000 (fun x y => x && y)

/-- R106. -/
def Obligations.OrIsBitwise : Prop := Claims.R3Bitwise .or 0x0A000000 (fun x y => x || y)

/-- R107. -/
def Obligations.XorIsBitwise : Prop := Claims.R3Bitwise .xor 0x0B000000 (fun x y => x != y)

/-- ANDN complements the second source. The operand order is the spec's inference from general knowledge
(93_implementation_defined.md I7, "`andNot(a, b) = a & ~b`"; assumption log 11). -/
def Obligations.AndnClearsBitsOfSecondSource : Prop := Claims.R3Bitwise .andn 0x0C000000 (fun x y => x && !y)

/-- R109: all 256 bits inverted, which is 2^256 - 1 - a. -/
def Obligations.NotInvertsAllBits : Prop :=
  ∀ (s : State) (rd rs1 : Reg),
    encode (.not rd rs1) = 0x0D000000#32 ||| BitVec.ofNat 32 rd.val <<< 21 ||| BitVec.ofNat 32 rs1.val <<< 18 ∧
    ∃ a t, s.Reads rs1 a ∧ exec (.not rd rs1) s = .next t ∧ (t.getU rd).toNat = 2 ^ 256 - 1 - a.toNat ∧
      (∀ k, k < 256 → (t.getU rd).getLsbD k = !a.getLsbD k) ∧ t.isWritten rd = true ∧ State.OnlyWrites [rd] s t

/-- CMP writes SRES only: -1 for less, 0 for equal, 1 for greater, of the values as natural numbers. Which sign means
"less" is the spec's inference from general knowledge (93_implementation_defined.md I6; assumption log 10). -/
def Obligations.CmpOrdersAsNaturalNumbers : Prop :=
  ∀ (s : State) (rs1 rs2 : Reg),
    encode (.cmp rs1 rs2) = 0x0E000000#32 ||| BitVec.ofNat 32 rs1.val <<< 18 ||| BitVec.ofNat 32 rs2.val <<< 15 ∧
    ∃ a b t, s.Reads rs1 a ∧ s.Reads rs2 b ∧ exec (.cmp rs1 rs2) s = .next t ∧
      (a.toNat < b.toNat → t.sres = 0xFFFFFFFF) ∧ (a.toNat = b.toNat → t.sres = 0) ∧
      (a.toNat > b.toNat → t.sres = 1) ∧ State.OnlyWritesSres s t

/-- R120: the sum of the 256 bits, zero-extended into SRES; nothing else. -/
def Obligations.PopcntCountsOneBits : Prop :=
  ∀ (s : State) (rs1 : Reg),
    encode (.popcnt rs1) = 0x0F000000#32 ||| BitVec.ofNat 32 rs1.val <<< 18 ∧
    ∃ a t, s.Reads rs1 a ∧ exec (.popcnt rs1) s = .next t ∧
      t.sres.toNat = ((List.finRange 256).filter (fun k => a.getLsbD k.val)).length ∧ t.sres.toNat ≤ 256 ∧
      State.OnlyWritesSres s t

/-! ### Laws of the commands -/

/-- R89: after DIVMOD with a nonzero divisor, a = b*q + r and r < b as natural numbers, and no other pair of naturals
satisfies both. -/
def Obligations.DivisionLawHolds : Prop :=
  ∀ (s : State) (rd rd2 rs1 rs2 : Reg), rd ≠ rd2 → s.isWritten rs1 = true → s.isWritten rs2 = true →
    s.getU rs2 ≠ 0 →
    ∃ t, exec (.divmod rd rd2 rs1 rs2) s = .next t ∧
      (s.getU rs1).toNat = (s.getU rs2).toNat * (t.getU rd).toNat + (t.getU rd2).toNat ∧
      (t.getU rd2).toNat < (s.getU rs2).toNat ∧
      ∀ q r : Nat, (s.getU rs1).toNat = (s.getU rs2).toNat * q + r → r < (s.getU rs2).toNat →
        q = (t.getU rd).toNat ∧ r = (t.getU rd2).toNat

/-- R100: an amount of 256 or more gives 0 for all four shift commands, whatever the value; it is never reduced. -/
def Obligations.AmountsOf256AndMoreGiveZero : Prop :=
  (∀ (s t : State) (rd rs1 rs2 : Reg), s.isWritten rs2 = true → (s.getU rs2).toNat ≥ 256 →
    (exec (.shl rd rs1 rs2) s = .next t ∨ exec (.shr rd rs1 rs2) s = .next t) → t.getU rd = 0) ∧
  (∀ (s t : State) (rd rs1 : Reg) (imm : BitVec 12), imm.toNat ≥ 256 →
    (exec (.shli rd rs1 imm) s = .next t ∨ exec (.shri rd rs1 imm) s = .next t) → t.getU rd = 0)

/-- The source's property "a + not(a) == 2^256 - 1", of two commands run one after the other. -/
def Obligations.OnesComplementSumIsAllOnes : Prop :=
  ∀ (s t t' : State) (d e r : Reg), s.isWritten r = true → d ≠ r → exec (.not d r) s = .next t →
    exec (.add e r d) t = .next t' → (t'.getU e).toNat = 2 ^ 256 - 1

/-- The source's shift and multiply equivalence: SHL by n writes what MUL by a register holding 2^n writes. -/
def Obligations.ShlEqualsMulByPowerOfTwo : Prop :=
  ∀ (s t t' : State) (rd rs1 rs2 rs3 : Reg), s.isWritten rs1 = true → s.isWritten rs2 = true →
    s.isWritten rs3 = true → (s.getU rs2).toNat < 256 → (s.getU rs3).toNat = 2 ^ (s.getU rs2).toNat →
    exec (.shl rd rs1 rs2) s = .next t → exec (.mul rd rs1 rs3) s = .next t' → t = t'

/-- R71's overflow test, made with CMP: after ADD into a third register, CMP of the sum with the first operand leaves
-1 in SRES exactly when a carry was discarded. Rests on the sign of CMP (assumption log 10). -/
def Obligations.CmpAfterAddDetectsDiscardedCarry : Prop :=
  ∀ (s t t' : State) (rd rs1 rs2 : Reg), s.isWritten rs1 = true → s.isWritten rs2 = true → rd ≠ rs1 →
    exec (.add rd rs1 rs2) s = .next t → exec (.cmp rd rs1) t = .next t' →
    (t'.sres = 0xFFFFFFFF ↔ (s.getU rs1).toNat + (s.getU rs2).toNat ≥ 2 ^ 256)

/-- R117's readings of SRES after CMP. They rest on the sign of CMP (assumption log 10). -/
def Obligations.SresReadingsAreThePredicates : Prop :=
  ∀ (s t : State) (rs1 rs2 : Reg), s.isWritten rs1 = true → s.isWritten rs2 = true →
    exec (.cmp rs1 rs2) s = .next t →
    (sresEq t.sres = true ↔ s.getU rs1 = s.getU rs2) ∧ (sresNeq t.sres = true ↔ s.getU rs1 ≠ s.getU rs2) ∧
    (sresLt t.sres = true ↔ (s.getU rs1).toNat < (s.getU rs2).toNat) ∧
    (sresLte t.sres = true ↔ (s.getU rs1).toNat ≤ (s.getU rs2).toNat) ∧
    (sresGt t.sres = true ↔ (s.getU rs1).toNat > (s.getU rs2).toNat) ∧
    (sresGte t.sres = true ↔ (s.getU rs1).toNat ≥ (s.getU rs2).toNat) ∧
    sresCmp t.sres = (if (s.getU rs1).toNat < (s.getU rs2).toNat then -1 else if s.getU rs1 = s.getU rs2 then 0 else 1) ∧
    (sresMin t.sres (s.getU rs1) (s.getU rs2)).toNat = min (s.getU rs1).toNat (s.getU rs2).toNat ∧
    (sresMax t.sres (s.getU rs1) (s.getU rs2)).toNat = max (s.getU rs1).toNat (s.getU rs2).toNat

/-- R61: the three pseudo-instructions are exact aliases; MOV copies, CLR writes 0 into a register that has a value,
NEGATE writes 2^256 - 1 - a. -/
def Obligations.PseudoInstructionsAreAliases : Prop :=
  (∀ d a : Reg, assemble (.mov d a) = some (encode (.or d a a)) ∧ assemble (.clr d) = some (encode (.xor d d d)) ∧
    assemble (.negate d a) = some (encode (.not d a))) ∧
  (∀ (s : State) (d a : Reg), s.isWritten a = true →
    ∃ t, exec (.or d a a) s = .next t ∧ t.getU d = s.getU a ∧ State.OnlyWrites [d] s t) ∧
  (∀ (s : State) (d : Reg), s.isWritten d = true →
    ∃ t, exec (.xor d d d) s = .next t ∧ t.getU d = 0 ∧ State.OnlyWrites [d] s t) ∧
  (∀ (s : State) (d a : Reg), s.isWritten a = true →
    ∃ t, exec (.not d a) s = .next t ∧ (t.getU d).toNat = 2 ^ 256 - 1 - (s.getU a).toNat ∧
      State.OnlyWrites [d] s t)

/-- What the assembler accepts it encodes as a word that decodes; it refuses an immediate above 4095 and a DIVMOD with
equal destinations (R59), and reduces neither. -/
def Obligations.AssemblerRefusesRatherThanReduces : Prop :=
  (∀ (a : Asm) (w : Word), assemble a = some w → ∃ i, decode w = .ok i ∧ asmInstr a = some i) ∧
  (∀ a : Asm, assemble a = none ↔
    (∃ ud ua n, n > 4095 ∧ (a = .shli ud ua n ∨ a = .shri ud ua n)) ∨ (∃ q ua ub, a = .divmod q q ua ub))

/-! ### The reference datapaths, for every limb width W with N * W = 256 -/

/-- The ripple-carry adder computes the sum modulo 2^256. -/
def Obligations.AdderDatapathComputesSum : Prop :=
  ∀ (W N : Nat) (a b : U256), W * N = 256 → addDatapath W N a b = addWrap a b

/-- The ripple-borrow subtractor computes the difference modulo 2^256. -/
def Obligations.SubtractorDatapathComputesDifference : Prop :=
  ∀ (W N : Nat) (a b : U256), W * N = 256 → subDatapath W N a b = subWrap a b

/-- The schoolbook multiplier computes the low 256 bits, and its accumulator of 2W bits never overflows. -/
def Obligations.MultiplierDatapathComputesProduct : Prop :=
  (∀ (W N : Nat) (a b : U256), W * N = 256 → mulDatapath W N a b = mulWrap a b) ∧
  (∀ W x y r c : Nat, x < 2 ^ W → y < 2 ^ W → r < 2 ^ W → c < 2 ^ W → accumulate W x y r c = x * y + r + c)

/-- The restoring divider, with 256-bit working storage, computes quotient and remainder. -/
def Obligations.DividerDatapathComputesQuotientRemainder : Prop :=
  ∀ a b : U256, b ≠ 0 → divDatapath a b = (quotient a b, remainder a b)

/-- Both limb shifters compute the shifts, for every amount. -/
def Obligations.ShifterDatapathsComputeShifts : Prop :=
  ∀ (W N : Nat) (a : U256) (n : Nat), W * N = 256 →
    shiftLeftDatapath W N a n = shiftLeft a n ∧ shiftRightDatapath W N a n = shiftRight a n

/-- The logic unit computes the five operations limb by limb. -/
def Obligations.LogicDatapathComputesBitwise : Prop :=
  ∀ (W N : Nat) (a b : U256), W * N = 256 →
    logicDatapath (fun x y => x &&& y) W N a b = a &&& b ∧ logicDatapath (fun x y => x ||| y) W N a b = a ||| b ∧
    logicDatapath (fun x y => x ^^^ y) W N a b = a ^^^ b ∧
    logicDatapath (fun x y => x &&& limbNot W y) W N a b = a &&& ~~~b ∧ notDatapath W N a = ~~~a

/-- The comparator's scan from the top limb down, sign-extended, is the compare result. The sign is assumption log 10. -/
def Obligations.ComparatorDatapathComputesOrder : Prop :=
  ∀ (W N : Nat) (a b : U256), W * N = 256 → BitVec.ofInt 32 (compareDatapath W N a b) = compareCode a b

/-- The counts of the limbs add up to the count of the register. -/
def Obligations.PopcountDatapathCountsBits : Prop :=
  ∀ (W N : Nat) (a : U256), W * N = 256 → popcountDatapath W N a = popcnt a

/-! ### The whole machine -/

/-- The reset state meets the invariant. -/
def Obligations.ResetStateMeetsInvariant : Prop := State.reset.Inv

/-- Every step, of whatever transaction, keeps the invariant, from every state that meets it. -/
def Obligations.EveryStepKeepsInvariant : Prop :=
  ∀ s t : State, s.Inv → step s = .next t → t.Inv

/-- R168's batch rule: EXECs issued back to back from an unfaulted state, STATUS read once at the end. If FAULT is 0
there, it was 0 before every one of them, so that none was dropped, every word was a command, and the run did not go
wrong (R134). -/
def Obligations.BatchEndingUnfaultedRanEveryCommand : Prop :=
  ∀ (s t : State) (ws : List Word) (rest : List Transaction), s.resetDone = true → s.fault = 0 →
    s.pending = ws.map Transaction.exec ++ rest → Sys2Proof.core.run ws.length s = .next t → t.fault = 0 →
    t.pending = rest ∧ s.wentWrong ws.length = some false ∧
    ∀ (k : Nat) (w : Word), ws[k]? = some w →
      ∃ (u v : State) (i : Instr), Sys2Proof.core.run k s = .next u ∧ u.fault = 0 ∧ decode w = .ok i ∧
        exec i (u.withPending u.pending.tail) = .next v ∧ Sys2Proof.core.run (k + 1) s = .next v

/-- A program whose host decides from what it has read back (R134) runs as some list of transactions does: the one it
issued, at most `fuel` long, placed in the host's list at once (assumption log 4). -/
def Obligations.ProgramRunIsARunOfItsList : Prop :=
  ∀ (program : Program) (fuel : Nat) (s t : State), s.pending = [] → runProgram program fuel 0 s = .next t →
    ∃ xs : List Transaction, xs.length ≤ fuel ∧ (xs.length < fuel → program xs.length t.replies = none) ∧
      Sys2Proof.core.run xs.length (s.withPending xs) = .next t ∧
      ∀ (k : Nat) (x : Transaction), xs[k]? = some x →
        ∃ u : State, Sys2Proof.core.run k (s.withPending xs) = .next u ∧ program k u.replies = some x
end

