-- ==== Sys2Proof/Laws/Datapath.lean ====
section
/-! SUPPORT. Laws/Datapath.lean: the limb view (R13): a value is its lowest limb and the limbs of the rest, and the
limbs put together again are the value modulo 2^(W*N). -/

namespace Sys2Proof.Machine

theorem limb_zero (W v : Nat) : limb W v 0 = v % 2 ^ W := by simp [limb]

theorem limb_succ (W v i : Nat) : limb W v (i + 1) = limb W (v / 2 ^ W) i := by
  simp [limb, Nat.mul_add, Nat.pow_add, Nat.mul_comm (2 ^ (W * i)), Nat.div_div_eq_div_mul]

theorem limb_lt (W v i : Nat) : limb W v i < 2 ^ W := Nat.mod_lt _ (Nat.two_pow_pos W)

@[simp] theorem limbs_zero (W v : Nat) : limbs W 0 v = [] := rfl

theorem limbs_succ (W N v : Nat) : limbs W (N + 1) v = v % 2 ^ W :: limbs W N (v / 2 ^ W) := by
  simp [limbs, List.range_succ_eq_map, limb_zero, limb_succ]

@[simp] theorem length_limbs (W N v : Nat) : (limbs W N v).length = N := by simp [limbs]

@[simp] theorem fromLimbs_nil (W : Nat) : fromLimbs W [] = 0 := rfl

@[simp] theorem fromLimbs_cons (W r : Nat) (rs : List Nat) :
    fromLimbs W (r :: rs) = r + 2 ^ W * fromLimbs W rs := rfl

theorem fromLimbs_limbs (W N v : Nat) : fromLimbs W (limbs W N v) = v % 2 ^ (W * N) := by
  induction N generalizing v with
  | zero => simp [Nat.mod_one]
  | succ N ih => rw [limbs_succ, fromLimbs_cons, ih, Nat.mul_succ, Nat.add_comm (W * N) W, Nat.pow_add, Nat.mod_mul]

/-- The register made of the limbs of a register is that register, for every limb width that divides 256 (R4). -/
theorem registerOf_limbs {W N : Nat} (h : W * N = 256) (a : U256) : registerOf W (limbs W N a.toNat) = a := by
  apply BitVec.eq_of_toNat_eq
  rw [registerOf, fromLimbs_limbs, h, BitVec.toNat_ofNat, Nat.mod_mod, Nat.mod_eq_of_lt a.isLt]

end Sys2Proof.Machine
end

