-- ==== Sys2Proof/Laws/Decode.lean ====
section
/-! SUPPORT. Laws/Decode.lean: the fields of a packed word, and a word as the packing of its fields (R51). -/

namespace Sys2Proof

@[simp] theorem regOfBits_bitsOfReg (r : Reg) : regOfBits (bitsOfReg r) = r := rfl

@[simp] theorem bitsOfReg_regOfBits (b : BitVec 3) : bitsOfReg (regOfBits b) = b := rfl

variable (op : BitVec 8) (rd rs1 rs2 rd2 : Reg) (imm : BitVec 12)

@[simp] theorem opField_packWord : opField (packWord op rd rs1 rs2 rd2 imm) = op := by
  ext k hk
  simp only [opField, packWord, BitVec.getElem_extractLsb', BitVec.getLsbD_append]
  rw [if_neg (by omega), if_neg (by omega), if_neg (by omega), if_neg (by omega), if_neg (by omega)]
  rw [BitVec.getLsbD_eq_getElem (by omega)]
  congr 1
  omega

@[simp] theorem rdField_packWord : rdField (packWord op rd rs1 rs2 rd2 imm) = rd := by
  have h : (packWord op rd rs1 rs2 rd2 imm).extractLsb' 21 3 = bitsOfReg rd := by
    ext k hk
    simp only [packWord, BitVec.getElem_extractLsb', BitVec.getLsbD_append]
    rw [if_neg (by omega), if_neg (by omega), if_neg (by omega), if_neg (by omega), if_pos (by omega)]
    rw [BitVec.getLsbD_eq_getElem (by omega)]
    congr 1
    omega
  simp [rdField, h]

@[simp] theorem rs1Field_packWord : rs1Field (packWord op rd rs1 rs2 rd2 imm) = rs1 := by
  have h : (packWord op rd rs1 rs2 rd2 imm).extractLsb' 18 3 = bitsOfReg rs1 := by
    ext k hk
    simp only [packWord, BitVec.getElem_extractLsb', BitVec.getLsbD_append]
    rw [if_neg (by omega), if_neg (by omega), if_neg (by omega), if_pos (by omega)]
    rw [BitVec.getLsbD_eq_getElem (by omega)]
    congr 1
    omega
  simp [rs1Field, h]

@[simp] theorem rs2Field_packWord : rs2Field (packWord op rd rs1 rs2 rd2 imm) = rs2 := by
  have h : (packWord op rd rs1 rs2 rd2 imm).extractLsb' 15 3 = bitsOfReg rs2 := by
    ext k hk
    simp only [packWord, BitVec.getElem_extractLsb', BitVec.getLsbD_append]
    rw [if_neg (by omega), if_neg (by omega), if_pos (by omega)]
    rw [BitVec.getLsbD_eq_getElem (by omega)]
    congr 1
    omega
  simp [rs2Field, h]

@[simp] theorem rd2Field_packWord : rd2Field (packWord op rd rs1 rs2 rd2 imm) = rd2 := by
  have h : (packWord op rd rs1 rs2 rd2 imm).extractLsb' 12 3 = bitsOfReg rd2 := by
    ext k hk
    simp only [packWord, BitVec.getElem_extractLsb', BitVec.getLsbD_append]
    rw [if_neg (by omega), if_pos (by omega)]
    rw [BitVec.getLsbD_eq_getElem (by omega)]
    congr 1
    omega
  simp [rd2Field, h]

@[simp] theorem immField_packWord : immField (packWord op rd rs1 rs2 rd2 imm) = imm := by
  ext k hk
  simp only [immField, packWord, BitVec.getElem_extractLsb', BitVec.getLsbD_append]
  rw [if_pos (by omega), BitVec.getLsbD_eq_getElem (by omega)]
  congr 1
  omega

/-- Bit `k` of a packed word is a bit of one of its fields (R51). -/
theorem getLsbD_packWord (k : Nat) : (packWord op rd rs1 rs2 rd2 imm).getLsbD k =
    if k < 12 then imm.getLsbD k else if k < 15 then (bitsOfReg rd2).getLsbD (k - 12)
    else if k < 18 then (bitsOfReg rs2).getLsbD (k - 15) else if k < 21 then (bitsOfReg rs1).getLsbD (k - 18)
    else if k < 24 then (bitsOfReg rd).getLsbD (k - 21) else op.getLsbD (k - 24) := by
  have h : (packWord op rd rs1 rs2 rd2 imm).getLsbD k =
      (op ++ bitsOfReg rd ++ bitsOfReg rs1 ++ bitsOfReg rs2 ++ bitsOfReg rd2 ++ imm).getLsbD k := rfl
  rw [h]
  simp only [BitVec.getLsbD_append]
  split_ifs <;> first | rfl | omega

/-- A word is the packing of its six fields: no bit of it is outside them (R51). -/
theorem packWord_fields (w : Word) :
    packWord (opField w) (rdField w) (rs1Field w) (rs2Field w) (rd2Field w) (immField w) = w := by
  apply BitVec.eq_of_getLsbD_eq
  intro k hk
  rw [getLsbD_packWord]
  simp only [opField, rdField, rs1Field, rs2Field, rd2Field, immField, bitsOfReg_regOfBits,
    BitVec.getLsbD_extractLsb']
  have bit (lo len j : Nat) (h1 : j < len) (h2 : lo + j = k) :
      (decide (j < len) && w.getLsbD (lo + j)) = w.getLsbD k := by simp [h1, h2]
  split_ifs <;> exact bit _ _ _ (by omega) (by omega)

/-- Masking a packed word masks it field by field. -/
theorem packWord_and (op' : BitVec 8) (rd' rs1' rs2' rd2' : Reg) (imm' : BitVec 12) :
    packWord op rd rs1 rs2 rd2 imm &&& packWord op' rd' rs1' rs2' rd2' imm' =
      packWord (op &&& op') (regOfBits (bitsOfReg rd &&& bitsOfReg rd'))
        (regOfBits (bitsOfReg rs1 &&& bitsOfReg rs1')) (regOfBits (bitsOfReg rs2 &&& bitsOfReg rs2'))
        (regOfBits (bitsOfReg rd2 &&& bitsOfReg rd2')) (imm &&& imm') := by
  apply BitVec.eq_of_getLsbD_eq
  intro k hk
  rw [BitVec.getLsbD_and]
  simp only [getLsbD_packWord, bitsOfReg_regOfBits, BitVec.getLsbD_and]
  split_ifs <;> rfl

end Sys2Proof
end

