-- ==== Sys2Proof/Laws/State.lean ====
section
/-! SUPPORT. Laws/State.lean: one lemma per field per update of the state, so that no later proof unfolds a record
update; and the register file's read-after-write laws. -/

namespace Sys2Proof.Machine

variable (s : State) (r q : Reg) (v : U256)

@[simp] theorem State.getU_writeU : (s.writeU r v).getU q = if q = r then v else s.getU q := by
  simp [State.writeU, State.getU, Vector.get_eq_getElem, Vector.getElem_set, Fin.ext_iff, eq_comm]

@[simp] theorem State.isWritten_writeU : (s.writeU r v).isWritten q = (decide (q = r) || s.isWritten q) := by
  by_cases h : q = r <;>
    simp_all [State.writeU, State.isWritten, Vector.get_eq_getElem, Fin.ext_iff, eq_comm]

@[simp] theorem State.sres_writeU : (s.writeU r v).sres = s.sres := rfl

@[simp] theorem State.fault_writeU : (s.writeU r v).fault = s.fault := rfl

@[simp] theorem State.fcmd_writeU : (s.writeU r v).fcmd = s.fcmd := rfl

@[simp] theorem State.resetDone_writeU : (s.writeU r v).resetDone = s.resetDone := rfl

@[simp] theorem State.pending_writeU : (s.writeU r v).pending = s.pending := rfl

@[simp] theorem State.replies_writeU : (s.writeU r v).replies = s.replies := rfl

@[simp] theorem State.draws_writeU : (s.writeU r v).draws = s.draws := rfl

/-! ### A read -/

@[simp] theorem State.getU_afterRead : (s.afterRead r).getU q = s.getU q := by
  unfold State.afterRead; split <;> rfl

@[simp] theorem State.isWritten_afterRead : (s.afterRead r).isWritten q = s.isWritten q := by
  unfold State.afterRead; split <;> rfl

@[simp] theorem State.sres_afterRead : (s.afterRead r).sres = s.sres := by
  unfold State.afterRead; split <;> rfl

@[simp] theorem State.fault_afterRead : (s.afterRead r).fault = s.fault := by
  unfold State.afterRead; split <;> rfl

@[simp] theorem State.fcmd_afterRead : (s.afterRead r).fcmd = s.fcmd := by
  unfold State.afterRead; split <;> rfl

@[simp] theorem State.resetDone_afterRead : (s.afterRead r).resetDone = s.resetDone := by
  unfold State.afterRead; split <;> rfl

@[simp] theorem State.pending_afterRead : (s.afterRead r).pending = s.pending := by
  unfold State.afterRead; split <;> rfl

@[simp] theorem State.replies_afterRead : (s.afterRead r).replies = s.replies := by
  unfold State.afterRead; split <;> rfl

@[simp] theorem State.u_afterRead : (s.afterRead r).u = s.u := by
  unfold State.afterRead; split <;> rfl

@[simp] theorem State.written_afterRead : (s.afterRead r).written = s.written := by
  unfold State.afterRead; split <;> rfl

@[simp] theorem State.getU_afterReads (r1 r2 : Reg) : (s.afterReads r1 r2).getU q = s.getU q := by
  simp [State.afterReads]

@[simp] theorem State.isWritten_afterReads (r1 r2 : Reg) : (s.afterReads r1 r2).isWritten q = s.isWritten q := by
  simp [State.afterReads]

@[simp] theorem State.sres_afterReads (r1 r2 : Reg) : (s.afterReads r1 r2).sres = s.sres := by
  simp [State.afterReads]

@[simp] theorem State.fault_afterReads (r1 r2 : Reg) : (s.afterReads r1 r2).fault = s.fault := by
  simp [State.afterReads]

@[simp] theorem State.fcmd_afterReads (r1 r2 : Reg) : (s.afterReads r1 r2).fcmd = s.fcmd := by
  simp [State.afterReads]

@[simp] theorem State.resetDone_afterReads (r1 r2 : Reg) : (s.afterReads r1 r2).resetDone = s.resetDone := by
  simp [State.afterReads]

@[simp] theorem State.pending_afterReads (r1 r2 : Reg) : (s.afterReads r1 r2).pending = s.pending := by
  simp [State.afterReads]

@[simp] theorem State.replies_afterReads (r1 r2 : Reg) : (s.afterReads r1 r2).replies = s.replies := by
  simp [State.afterReads]

/-! ### SRES, the faults, ACK -/

@[simp] theorem State.getU_writeSres (w : Word) : (s.writeSres w).getU q = s.getU q := rfl

@[simp] theorem State.isWritten_writeSres (w : Word) : (s.writeSres w).isWritten q = s.isWritten q := rfl

@[simp] theorem State.sres_writeSres (w : Word) : (s.writeSres w).sres = w := rfl

@[simp] theorem State.fault_writeSres (w : Word) : (s.writeSres w).fault = s.fault := rfl

@[simp] theorem State.fcmd_writeSres (w : Word) : (s.writeSres w).fcmd = s.fcmd := rfl

@[simp] theorem State.resetDone_writeSres (w : Word) : (s.writeSres w).resetDone = s.resetDone := rfl

@[simp] theorem State.pending_writeSres (w : Word) : (s.writeSres w).pending = s.pending := rfl

@[simp] theorem State.replies_writeSres (w : Word) : (s.writeSres w).replies = s.replies := rfl

@[simp] theorem State.draws_writeSres (w : Word) : (s.writeSres w).draws = s.draws := rfl

@[simp] theorem State.getU_raise (c : BitVec 4) (w : Word) : (s.raise c w).getU q = s.getU q := rfl

@[simp] theorem State.isWritten_raise (c : BitVec 4) (w : Word) : (s.raise c w).isWritten q = s.isWritten q := rfl

@[simp] theorem State.sres_raise (c : BitVec 4) (w : Word) : (s.raise c w).sres = s.sres := rfl

@[simp] theorem State.fault_raise (c : BitVec 4) (w : Word) : (s.raise c w).fault = c := rfl

@[simp] theorem State.fcmd_raise (c : BitVec 4) (w : Word) : (s.raise c w).fcmd = w := rfl

@[simp] theorem State.resetDone_raise (c : BitVec 4) (w : Word) : (s.raise c w).resetDone = s.resetDone := rfl

@[simp] theorem State.pending_raise (c : BitVec 4) (w : Word) : (s.raise c w).pending = s.pending := rfl

@[simp] theorem State.replies_raise (c : BitVec 4) (w : Word) : (s.raise c w).replies = s.replies := rfl

@[simp] theorem State.draws_raise (c : BitVec 4) (w : Word) : (s.raise c w).draws = s.draws := rfl

@[simp] theorem State.getU_acknowledge : (s.acknowledge).getU q = s.getU q := rfl

@[simp] theorem State.isWritten_acknowledge : (s.acknowledge).isWritten q = s.isWritten q := rfl

@[simp] theorem State.sres_acknowledge : (s.acknowledge).sres = s.sres := rfl

@[simp] theorem State.fault_acknowledge : (s.acknowledge).fault = 0 := rfl

@[simp] theorem State.fcmd_acknowledge : (s.acknowledge).fcmd = s.fcmd := rfl

@[simp] theorem State.resetDone_acknowledge : (s.acknowledge).resetDone = s.resetDone := rfl

@[simp] theorem State.pending_acknowledge : (s.acknowledge).pending = s.pending := rfl

@[simp] theorem State.replies_acknowledge : (s.acknowledge).replies = s.replies := rfl

@[simp] theorem State.draws_acknowledge : (s.acknowledge).draws = s.draws := rfl

/-! ### RESET -/

@[simp] theorem State.getU_reset : State.reset.getU q = 0 := by
  simp [State.reset, State.getU, Vector.get_eq_getElem]

@[simp] theorem State.isWritten_reset : State.reset.isWritten q = false := by
  simp [State.reset, State.isWritten, Vector.get_eq_getElem]

@[simp] theorem State.isWritten_clear : s.clear.isWritten q = false := State.isWritten_reset q

@[simp] theorem State.sres_clear : (s.clear).sres = 0 := rfl

@[simp] theorem State.fault_clear : (s.clear).fault = 0 := rfl

@[simp] theorem State.fcmd_clear : (s.clear).fcmd = 0 := rfl

@[simp] theorem State.resetDone_clear : (s.clear).resetDone = true := rfl

@[simp] theorem State.pending_clear : (s.clear).pending = s.pending := rfl

@[simp] theorem State.replies_clear : (s.clear).replies = s.replies := rfl

@[simp] theorem State.draws_clear : (s.clear).draws = s.draws := rfl

/-! ### Replies, and the transaction taken off the list -/

@[simp] theorem State.getU_reply (x : Reply) : (s.reply x).getU q = s.getU q := rfl

@[simp] theorem State.isWritten_reply (x : Reply) : (s.reply x).isWritten q = s.isWritten q := rfl

@[simp] theorem State.sres_reply (x : Reply) : (s.reply x).sres = s.sres := rfl

@[simp] theorem State.fault_reply (x : Reply) : (s.reply x).fault = s.fault := rfl

@[simp] theorem State.fcmd_reply (x : Reply) : (s.reply x).fcmd = s.fcmd := rfl

@[simp] theorem State.resetDone_reply (x : Reply) : (s.reply x).resetDone = s.resetDone := rfl

@[simp] theorem State.pending_reply (x : Reply) : (s.reply x).pending = s.pending := rfl

@[simp] theorem State.replies_reply (x : Reply) : (s.reply x).replies = s.replies ++ [x] := rfl

@[simp] theorem State.draws_reply (x : Reply) : (s.reply x).draws = s.draws := rfl

@[simp] theorem State.getU_withPending (p : List Transaction) : (s.withPending p).getU q = s.getU q := rfl

@[simp] theorem State.isWritten_withPending (p : List Transaction) : (s.withPending p).isWritten q = s.isWritten q := rfl

@[simp] theorem State.readU_withPending (p : List Transaction) : (s.withPending p).readU q = s.readU q := rfl

@[simp] theorem State.operandA_withPending (p : List Transaction) : (s.withPending p).operandA q = s.operandA q := rfl

@[simp] theorem State.sres_withPending (p : List Transaction) : (s.withPending p).sres = s.sres := rfl

@[simp] theorem State.fault_withPending (p : List Transaction) : (s.withPending p).fault = s.fault := rfl

@[simp] theorem State.fcmd_withPending (p : List Transaction) : (s.withPending p).fcmd = s.fcmd := rfl

@[simp] theorem State.resetDone_withPending (p : List Transaction) : (s.withPending p).resetDone = s.resetDone := rfl

@[simp] theorem State.replies_withPending (p : List Transaction) : (s.withPending p).replies = s.replies := rfl

@[simp] theorem State.draws_withPending (p : List Transaction) : (s.withPending p).draws = s.draws := rfl

@[simp] theorem State.faulted_withPending (p : List Transaction) : (s.withPending p).faulted = s.faulted := rfl

@[simp] theorem State.status_withPending (p : List Transaction) : (s.withPending p).status = s.status := rfl

@[simp] theorem State.pending_withPending (p : List Transaction) : (s.withPending p).pending = p := rfl

@[simp] theorem State.afterRead_withPending (p : List Transaction) :
    (s.withPending p).afterRead r = (s.afterRead r).withPending p := by
  unfold State.afterRead
  rw [State.isWritten_withPending]
  split <;> rfl

@[simp] theorem State.operandB_withPending (p : List Transaction) (r1 r2 : Reg) :
    (s.withPending p).operandB r1 r2 = s.operandB r1 r2 := by
  simp [State.operandB]

theorem State.faulted_iff : s.faulted = true ↔ s.fault ≠ 0 := by simp [State.faulted]

end Sys2Proof.Machine
end

