-- ==== Sys2Proof/Laws/Operands.lean ====
section
/-! SUPPORT. Laws/Operands.lean: what a read answers, and what each shared operation can do. -/

namespace Sys2Proof.Machine

theorem State.readU_of_written {s : State} {r : Reg} (h : s.isWritten r = true) : s.readU r = s.getU r := by
  simp [State.readU, h]

theorem State.afterRead_of_written {s : State} {r : Reg} (h : s.isWritten r = true) : s.afterRead r = s := by
  simp [State.afterRead, h]

theorem State.readU_of_unwritten {s : State} {r : Reg} (h : s.isWritten r = false) :
    s.readU r = Config.unspecifiedU s.draws := by
  simp [State.readU, h]

theorem State.afterRead_of_unwritten {s : State} {r : Reg} (h : s.isWritten r = false) :
    s.afterRead r = { s with draws := s.draws + 1 } := by
  simp [State.afterRead, h]

theorem State.operandA_of_written {s : State} {r : Reg} (h : s.isWritten r = true) : s.operandA r = s.getU r :=
  State.readU_of_written h

theorem State.operandB_of_written {s : State} {r1 r2 : Reg} (h : s.isWritten r2 = true) :
    s.operandB r1 r2 = s.getU r2 := by
  simp [State.operandB, State.readU, h]

theorem State.afterReads_of_written {s : State} {r1 r2 : Reg} (h1 : s.isWritten r1 = true)
    (h2 : s.isWritten r2 = true) : s.afterReads r1 r2 = s := by
  simp [State.afterReads, State.afterRead_of_written, h1, h2]

/-- The two things DIVMOD's last part can do: raise DivideByZero, or write both results. -/
theorem State.divide_cases (s : State) (w : Word) (rd rd2 : Reg) (a b : U256) :
    (b = 0 ∧ s.divide w rd rd2 a b = s.raise divideByZero w) ∨
    (b ≠ 0 ∧ s.divide w rd rd2 a b = (s.writeU rd (quotient a b)).writeU rd2 (remainder a b)) := by
  by_cases h : b = 0
  · exact .inl ⟨h, if_pos h⟩
  · exact .inr ⟨h, if_neg h⟩

/-- Everything a command can do: it completes, or it raises a fault and writes nothing but FAULT and FCMD. -/
theorem exec_cases {i : Instr} {s t : State} (h : exec i s = .next t) :
    (t.resetDone = s.resetDone ∧ t.pending = s.pending ∧ t.replies = s.replies) ∧
    ((State.KeepsRegistersBut i.dests s t ∧ (∀ q ∈ i.dests, t.isWritten q = true) ∧
        t.fault = s.fault ∧ t.fcmd = s.fcmd ∧
        (t.sres = s.sres ∨ (∃ rs1 rs2, i = .cmp rs1 rs2 ∧ t.sres = compareCode (s.operandA rs1) (s.operandB rs1 rs2)) ∨
          (∃ rs1, i = .popcnt rs1 ∧ t.sres = popcountCode (s.operandA rs1)))) ∨
     (State.KeepsRegistersBut [] s t ∧ t.sres = s.sres ∧ t.fcmd = encode i ∧
        ∃ rd rd2 rs1 rs2, i = .divmod rd rd2 rs1 rs2 ∧
          ((rd = rd2 ∧ t.fault = illegalCommand) ∨ (rd ≠ rd2 ∧ s.operandB rs1 rs2 = 0 ∧ t.fault = divideByZero)))) := by
  unfold State.KeepsRegistersBut
  cases i with
  | divmod rd rd2 rs1 rs2 =>
    by_cases hr : rd = rd2
    · simp only [exec, execDivmod, if_pos hr] at h
      cases h
      exact ⟨⟨rfl, rfl, rfl⟩, .inr ⟨by simp, rfl, rfl, _, _, _, _, rfl, .inl ⟨hr, rfl⟩⟩⟩
    · simp only [exec, execDivmod, if_neg hr] at h
      rcases State.divide_cases (s.afterReads rs1 rs2) (encode (.divmod rd rd2 rs1 rs2)) rd rd2
        (s.operandA rs1) (s.operandB rs1 rs2) with ⟨hb, hh⟩ | ⟨-, hh⟩
      · rw [hh] at h
        cases h
        exact ⟨by simp, .inr ⟨by simp, by simp, rfl, _, _, _, _, rfl, .inr ⟨hr, hb, rfl⟩⟩⟩
      · rw [hh] at h
        cases h
        exact ⟨by simp, .inl (by simp +contextual [Instr.dests])⟩
  | cmp rs1 rs2 => cases h; exact ⟨by simp, .inl (by simp [Instr.dests])⟩
  | popcnt rs1 => cases h; exact ⟨by simp, .inl (by simp [Instr.dests])⟩
  | _ => cases h; exact ⟨by simp, .inl (by simp +contextual [Instr.dests])⟩

/-- Every command answers a next state: none stops the block. -/
theorem exec_next (i : Instr) (s : State) : ∃ t, exec i s = .next t := by
  cases i <;> exact ⟨_, rfl⟩

/-- What an EXEC does: dropped, IllegalCommand, or the command (R128). -/
theorem performExec_cases (w : Word) (s : State) :
    (s.fault ≠ 0 ∧ performExec w s = .next s) ∨
    (s.fault = 0 ∧ (∃ e, decode w = .error e) ∧ performExec w s = .next (s.raise illegalCommand w)) ∨
    (s.fault = 0 ∧ ∃ i, decode w = .ok i ∧ performExec w s = exec i s) := by
  by_cases h : s.fault = 0
  · cases hd : decode w with
    | error e => exact .inr (.inl ⟨h, ⟨e, rfl⟩, by simp [performExec, State.faulted, h, hd]⟩)
    | ok i => exact .inr (.inr ⟨h, i, rfl, by simp [performExec, State.faulted, h, hd]⟩)
  · exact .inl ⟨h, if_pos (s.faulted_iff.mpr h)⟩

/-- What has a meaning only once the block has been reset answers a next state only then. -/
theorem onceReset_next {s t : State} {r : Result} (h : onceReset s r = .next t) :
    s.resetDone = true ∧ r = .next t := by
  unfold onceReset at h
  split at h
  · exact ⟨by assumption, h⟩
  · cases h

/-- Everything a CSRRD that answers a next state can do (R129). -/
theorem performCsrrd_cases {k : Nat} {s t : State} (h : performCsrrd k s = .next t) :
    ∃ v, t = s.reply (.csr v) ∧ ((k = 0 ∧ v = s.status) ∨ (k = 1 ∧ v = s.sres) ∨ (k = 2 ∧ v = s.fcmd)) := by
  match k, h with
  | 0, h => cases h; exact ⟨_, rfl, .inl ⟨rfl, rfl⟩⟩
  | 1, h => cases h; exact ⟨_, rfl, .inr (.inl ⟨rfl, rfl⟩)⟩
  | 2, h => cases h; exact ⟨_, rfl, .inr (.inr ⟨rfl, rfl⟩)⟩

/-- Everything a transaction that answers a next state can do: RESET, or, once reset, one of the other five. -/
theorem issue_cases {x : Transaction} {s t : State} (h : issue x s = .next t) :
    (x = .reset ∧ t = s.clear) ∨
    (s.resetDone = true ∧
      ((∃ i bytes, x = .load i bytes ∧ t = s.writeU i (imageValue bytes)) ∨
       (∃ i, x = .store i ∧ t = (s.afterRead i).reply (.image (imageOf (s.readU i)))) ∨
       (∃ w, x = .exec w ∧ performExec w s = .next t) ∨
       (∃ k, x = .csrrd k ∧ performCsrrd k s = .next t) ∨
       (x = .ack ∧ t = s.acknowledge))) := by
  cases x with
  | reset => cases h; exact .inl ⟨rfl, rfl⟩
  | load i bytes =>
    obtain ⟨hr, h⟩ := onceReset_next h
    cases h
    exact .inr ⟨hr, .inl ⟨i, bytes, rfl, rfl⟩⟩
  | store i =>
    obtain ⟨hr, h⟩ := onceReset_next h
    cases h
    exact .inr ⟨hr, .inr (.inl ⟨i, rfl, rfl⟩)⟩
  | exec w =>
    obtain ⟨hr, h⟩ := onceReset_next h
    exact .inr ⟨hr, .inr (.inr (.inl ⟨w, rfl, h⟩))⟩
  | csrrd k =>
    obtain ⟨hr, h⟩ := onceReset_next h
    exact .inr ⟨hr, .inr (.inr (.inr (.inl ⟨k, rfl, h⟩)))⟩
  | ack =>
    obtain ⟨hr, h⟩ := onceReset_next h
    cases h
    exact .inr ⟨hr, .inr (.inr (.inr (.inr ⟨rfl, rfl⟩)))⟩

/-- A step that answers a next state stays idle, or performs the transaction at the head of the host's list. -/
theorem step_cases {s t : State} (h : step s = .next t) :
    (s.pending = [] ∧ t = s) ∨
    ∃ x rest, s.pending = x :: rest ∧ issue x (s.withPending rest) = .next t := by
  unfold step performNext at h
  split at h
  · rename_i hp
    cases h
    exact .inl ⟨hp, rfl⟩
  · rename_i x rest hp
    exact .inr ⟨x, rest, hp, h⟩

/-- A step with a transaction at the head of the host's list performs it. -/
theorem step_of_pending {s : State} {x : Transaction} {rest : List Transaction} (h : s.pending = x :: rest) :
    step s = issue x (s.withPending rest) := by
  simp [step, performNext, h]

end Sys2Proof.Machine
end

