-- ==== Sys2Proof/Laws/PerInstr.lean ====
section
/-! SUPPORT. Laws/PerInstr.lean: the families of statements made per instruction. -/

namespace Sys2Proof.Laws

/-- The word of a command matches its own row of the opcode map under the row's mask (R54): every unused field is
zero and the opcode is the row's. -/
def TableRow.Statement (i : Instr) : Prop :=
  ∃ row ∈ opcodeMap, row.1 = i.opcode ∧ encode i &&& row.2.2 = row.2.1

/-- A word of fields, masked by the mask of its format, is its opcode alone. -/
theorem masked_word (op : BitVec 8) (rd rs1 rs2 rd2 mrd mrs2 mrd2 : Reg) (imm mimm : BitVec 12)
    (h1 : bitsOfReg rd &&& bitsOfReg mrd = 0) (h2 : bitsOfReg rs2 &&& bitsOfReg mrs2 = 0)
    (h3 : bitsOfReg rd2 &&& bitsOfReg mrd2 = 0) (h4 : imm &&& mimm = 0) :
    packWord op rd rs1 rs2 rd2 imm &&& packWord 0xFF mrd 0 mrs2 mrd2 mimm = packWord op 0 0 0 0 0 := by
  have h5 : op &&& 0xFF = op := BitVec.and_allOnes
  have h6 : bitsOfReg rs1 &&& bitsOfReg 0 = 0 := BitVec.and_zero
  rw [packWord_and, h1, h2, h3, h4, h5, h6]
  rfl

theorem TableRow.add (rd rs1 rs2 : Reg) : TableRow.Statement (.add rd rs1 rs2) := by
  refine ⟨(0x01, 0x01000000, 0xFF007FFF), by decide, rfl, ?_⟩
  exact masked_word 0x01 _ _ _ _ 0 0 7 _ 0xFFF
    (by simp [bitsOfReg]) (by simp [bitsOfReg]) (by simp [bitsOfReg]) (by simp)

theorem TableRow.sub (rd rs1 rs2 : Reg) : TableRow.Statement (.sub rd rs1 rs2) := by
  refine ⟨(0x02, 0x02000000, 0xFF007FFF), by decide, rfl, ?_⟩
  exact masked_word 0x02 _ _ _ _ 0 0 7 _ 0xFFF
    (by simp [bitsOfReg]) (by simp [bitsOfReg]) (by simp [bitsOfReg]) (by simp)

theorem TableRow.mul (rd rs1 rs2 : Reg) : TableRow.Statement (.mul rd rs1 rs2) := by
  refine ⟨(0x03, 0x03000000, 0xFF007FFF), by decide, rfl, ?_⟩
  exact masked_word 0x03 _ _ _ _ 0 0 7 _ 0xFFF
    (by simp [bitsOfReg]) (by simp [bitsOfReg]) (by simp [bitsOfReg]) (by simp)

theorem TableRow.divmod (rd rd2 rs1 rs2 : Reg) : TableRow.Statement (.divmod rd rd2 rs1 rs2) := by
  refine ⟨(0x04, 0x04000000, 0xFF000FFF), by decide, rfl, ?_⟩
  exact masked_word 0x04 _ _ _ _ 0 0 0 _ 0xFFF
    (by simp [bitsOfReg]) (by simp [bitsOfReg]) (by simp [bitsOfReg]) (by simp)

theorem TableRow.shl (rd rs1 rs2 : Reg) : TableRow.Statement (.shl rd rs1 rs2) := by
  refine ⟨(0x05, 0x05000000, 0xFF007FFF), by decide, rfl, ?_⟩
  exact masked_word 0x05 _ _ _ _ 0 0 7 _ 0xFFF
    (by simp [bitsOfReg]) (by simp [bitsOfReg]) (by simp [bitsOfReg]) (by simp)

theorem TableRow.shr (rd rs1 rs2 : Reg) : TableRow.Statement (.shr rd rs1 rs2) := by
  refine ⟨(0x06, 0x06000000, 0xFF007FFF), by decide, rfl, ?_⟩
  exact masked_word 0x06 _ _ _ _ 0 0 7 _ 0xFFF
    (by simp [bitsOfReg]) (by simp [bitsOfReg]) (by simp [bitsOfReg]) (by simp)

theorem TableRow.shli (rd rs1 : Reg) (imm : BitVec 12) : TableRow.Statement (.shli rd rs1 imm) := by
  refine ⟨(0x07, 0x07000000, 0xFF03F000), by decide, rfl, ?_⟩
  exact masked_word 0x07 _ _ _ _ 0 7 7 _ 0
    (by simp [bitsOfReg]) (by simp [bitsOfReg]) (by simp [bitsOfReg]) (by simp)

theorem TableRow.shri (rd rs1 : Reg) (imm : BitVec 12) : TableRow.Statement (.shri rd rs1 imm) := by
  refine ⟨(0x08, 0x08000000, 0xFF03F000), by decide, rfl, ?_⟩
  exact masked_word 0x08 _ _ _ _ 0 7 7 _ 0
    (by simp [bitsOfReg]) (by simp [bitsOfReg]) (by simp [bitsOfReg]) (by simp)

theorem TableRow.and (rd rs1 rs2 : Reg) : TableRow.Statement (.and rd rs1 rs2) := by
  refine ⟨(0x09, 0x09000000, 0xFF007FFF), by decide, rfl, ?_⟩
  exact masked_word 0x09 _ _ _ _ 0 0 7 _ 0xFFF
    (by simp [bitsOfReg]) (by simp [bitsOfReg]) (by simp [bitsOfReg]) (by simp)

theorem TableRow.or (rd rs1 rs2 : Reg) : TableRow.Statement (.or rd rs1 rs2) := by
  refine ⟨(0x0A, 0x0A000000, 0xFF007FFF), by decide, rfl, ?_⟩
  exact masked_word 0x0A _ _ _ _ 0 0 7 _ 0xFFF
    (by simp [bitsOfReg]) (by simp [bitsOfReg]) (by simp [bitsOfReg]) (by simp)

theorem TableRow.xor (rd rs1 rs2 : Reg) : TableRow.Statement (.xor rd rs1 rs2) := by
  refine ⟨(0x0B, 0x0B000000, 0xFF007FFF), by decide, rfl, ?_⟩
  exact masked_word 0x0B _ _ _ _ 0 0 7 _ 0xFFF
    (by simp [bitsOfReg]) (by simp [bitsOfReg]) (by simp [bitsOfReg]) (by simp)

theorem TableRow.andn (rd rs1 rs2 : Reg) : TableRow.Statement (.andn rd rs1 rs2) := by
  refine ⟨(0x0C, 0x0C000000, 0xFF007FFF), by decide, rfl, ?_⟩
  exact masked_word 0x0C _ _ _ _ 0 0 7 _ 0xFFF
    (by simp [bitsOfReg]) (by simp [bitsOfReg]) (by simp [bitsOfReg]) (by simp)

theorem TableRow.not (rd rs1 : Reg) : TableRow.Statement (.not rd rs1) := by
  refine ⟨(0x0D, 0x0D000000, 0xFF03FFFF), by decide, rfl, ?_⟩
  exact masked_word 0x0D _ _ _ _ 0 7 7 _ 0xFFF
    (by simp [bitsOfReg]) (by simp [bitsOfReg]) (by simp [bitsOfReg]) (by simp)

theorem TableRow.cmp (rs1 rs2 : Reg) : TableRow.Statement (.cmp rs1 rs2) := by
  refine ⟨(0x0E, 0x0E000000, 0xFFE07FFF), by decide, rfl, ?_⟩
  exact masked_word 0x0E _ _ _ _ 7 0 7 _ 0xFFF
    (by simp [bitsOfReg]) (by simp [bitsOfReg]) (by simp [bitsOfReg]) (by simp)

theorem TableRow.popcnt (rs1 : Reg) : TableRow.Statement (.popcnt rs1) := by
  refine ⟨(0x0F, 0x0F000000, 0xFFE3FFFF), by decide, rfl, ?_⟩
  exact masked_word 0x0F _ _ _ _ 7 7 7 _ 0xFFF
    (by simp [bitsOfReg]) (by simp [bitsOfReg]) (by simp [bitsOfReg]) (by simp)

end Sys2Proof.Laws
end

