-- ==== Sys2Proof/Laws/Runs.lean ====
section
/-! SUPPORT. Laws/Runs.lean: one more step of a run, and what its final state shows. -/

namespace Sys2Proof.Machine

variable (s : State) (k : Nat) (r : Reg)

theorem core_run_zero : Sys2Proof.core.run 0 s = .next s := rfl

/-- A run of one more step is that step and the run after it. -/
theorem core_run_of_next {s t : State} (h : step s = .next t) : Sys2Proof.core.run (k + 1) s = Sys2Proof.core.run k t := by
  have h' : Sys2Proof.core.step s = .next t := h
  simp only [Host.Core.run, h']

theorem core_run_of_refused {s : State} {why : Refusal} (h : step s = .refused why) :
    Sys2Proof.core.run (k + 1) s = .refused why := by
  have h' : Sys2Proof.core.step s = .refused why := h
  simp only [Host.Core.run, h']

theorem State.dropsWithin_of_next {s t : State} (h : step s = .next t) :
    s.dropsWithin (k + 1) = (s.dropsNext || t.dropsWithin k) := by
  simp only [State.dropsWithin, h]

theorem State.wentWrong_of_run {s t : State} {k : Nat} (h : Sys2Proof.core.run k s = .next t) :
    s.wentWrong k = some (s.dropsWithin k || t.faulted) := by
  simp only [State.wentWrong, h]

@[simp] theorem State.final_u : s.final.1.get r = s.shownU r := by
  simp [State.final, Vector.get_eq_getElem]

theorem State.shownU_of_written {s : State} {r : Reg} (h : s.isWritten r = true) : s.shownU r = some (s.getU r) :=
  if_pos h

theorem State.shownU_of_unwritten {s : State} {r : Reg} (h : s.isWritten r = false) : s.shownU r = none :=
  if_neg (by simp [h])

end Sys2Proof.Machine
end

