-- ==== Sys2Proof/Tests/Slice0.lean ====
section
/-! SUPPORT. Tests/Slice0.lean: vectors of 95_test_vectors.md (each named in its comment), words written out from
30_encoding.md, the ill-formed term, and a witness for the hypotheses of every statement. -/

namespace Sys2Proof.Tests

open Sys2Proof Sys2Proof.Machine

/-- The block after RESET, with `U[0]` and `U[1]` loaded. -/
def loaded (a b : U256) : State := (State.reset.writeU 0 a).writeU 1 b

/-- The state after one step whose transaction is `x`; the state itself where there is none. -/
def did (s : State) (x : Transaction) : State :=
  match step (s.withPending [x]) with
  | .next t => t
  | .fault _ => s
  | .refused _ => s

/-- The state after one step that is EXEC of `w`. -/
def ran (s : State) (w : Word) : State := did s (.exec w)

/-- The constant A of 95_test_vectors.md. -/
def constA : U256 := 0x0123456789abcdeffedcba98765432100f1e2d3c4b5a69788796a5b4c3d2e1f0

/-- The constant B of 95_test_vectors.md. -/
def constB : U256 := 0xfedcba98765432100123456789abcdeff0e1d2c3b4a5968778695a4b3c2d1e0f

/-- 2^256 - 1. -/
def ones : U256 := BitVec.allOnes 256

/-- 2^255. -/
def top : U256 := 0x8000000000000000000000000000000000000000000000000000000000000000

/-! ### Well-formedness (R56) -/

theorem test_illformed_divmod : (Instr.divmod 3 3 0 1).wellFormed = false := by decide

theorem test_wellformed_divmod : (Instr.divmod 3 4 3 4).wellFormed = true := by decide

/-! ### Decoding: each word written out field by field, op rd rs1 rs2 rd2 imm (R51, R52, R54) -/

theorem test_decode_add : decode 0b00000001_010_000_001_000_000000000000 = .ok (.add 2 0 1) := by decide
theorem test_decode_sub : decode 0b00000010_011_001_010_000_000000000000 = .ok (.sub 3 1 2) := by decide
theorem test_decode_mul : decode 0b00000011_001_111_100_000_000000000000 = .ok (.mul 1 7 4) := by decide
theorem test_decode_divmod : decode 0b00000100_011_000_001_110_000000000000 = .ok (.divmod 3 6 0 1) := by decide
theorem test_decode_shl : decode 0b00000101_011_001_010_000_000000000000 = .ok (.shl 3 1 2) := by decide
theorem test_decode_shr : decode 0b00000110_011_000_010_000_000000000000 = .ok (.shr 3 0 2) := by decide
theorem test_decode_shli : decode 0b00000111_001_010_000_000_000011111111 = .ok (.shli 1 2 255) := by decide
theorem test_decode_shri : decode 0b00001000_110_101_000_000_111111111111 = .ok (.shri 6 5 4095) := by decide
theorem test_decode_and : decode 0b00001001_101_100_011_000_000000000000 = .ok (.and 5 4 3) := by decide
theorem test_decode_or : decode 0b00001010_000_010_010_000_000000000000 = .ok (.or 0 2 2) := by decide
theorem test_decode_xor : decode 0b00001011_111_000_011_000_000000000000 = .ok (.xor 7 0 3) := by decide
theorem test_decode_andn : decode 0b00001100_110_100_011_000_000000000000 = .ok (.andn 6 4 3) := by decide
theorem test_decode_not : decode 0b00001101_001_110_000_000_000000000000 = .ok (.not 1 6) := by decide
theorem test_decode_cmp : decode 0b00001110_000_010_101_000_000000000000 = .ok (.cmp 2 5) := by decide
theorem test_decode_popcnt : decode 0b00001111_000_101_000_000_000000000000 = .ok (.popcnt 5) := by decide

/-- V-DEC-4, 7, 11, 13, 16, 18, 21. -/
theorem test_decode_illegal :
    decode 0x01409000 = .error .mustBeZero ∧ decode 0x0460B000 = .error .sameDestinations ∧
    decode 0x072480FF = .error .mustBeZero ∧ decode 0x0D208000 = .error .mustBeZero ∧
    decode 0x0E280000 = .error .mustBeZero ∧ decode 0x0F148000 = .error .mustBeZero ∧
    decode 0x10000000 = .error .reservedOpcode := by decide

/-- R32: a platform's memory holds the least significant byte first. -/
theorem test_decode_bytes : decodeBytes [0x00, 0x80, 0x40, 0x01, 0xAA] = .ok (.add 2 0 1, [0xAA]) := by decide

theorem test_decode_bytes_truncated : decodeBytes [0x00, 0x80, 0x40] = .error .truncated := by decide

theorem test_decode_table_word : decodeTableWord 32 0x0460C000 = some (.divmod 3 4 0 1) := by decide

/-! ### The commands -/

/-- V-ADD-2. -/
theorem test_add_wraps : (ran (loaded ones 1) 0x01408000).getU 2 = 0 := by decide

/-- V-ADD-10: all three fields one register. -/
theorem test_add_in_place : (ran (loaded (top + 1) 0) 0x01000000).getU 0 = 2 := by decide

/-- V-SUB-2. -/
theorem test_sub_borrows : (ran (loaded 0 1) 0x02408000).getU 2 = ones := by decide

/-- V-SUB-7: the order of the operands. -/
theorem test_sub_order : (ran (loaded constB constA) 0x02408000).getU 2 =
    0xfdb97530eca8642002468acf13579bdfe1c3a587694b2d0ef0d2b496785a3c1f := by decide

/-- V-MUL-9. -/
theorem test_mul_low_half : (ran (loaded constA constB) 0x03408000).getU 2 =
    0x87c6627a2b94d4073968a203abb8477787886c14633a7c09c5914ee027055d10 := by decide

/-- V-MUL-14: squaring in place. -/
theorem test_mul_in_place : (ran (loaded 0 constA) 0x03248000).getU 1 =
    0x7716581e4abf5e08c7baa363ddf38678695966af516b1a7db2d80b6b1527c100 := by decide

/-- V-DIV-10. -/
theorem test_divmod : (ran (loaded constB constA) 0x0440B000).getU 2 = 0xe0 ∧
    (ran (loaded constB constA) 0x0440B000).getU 3 =
      0x10ffffffffffffffe2b67a3e01c5894d10d4985c1fe3a76c0f := by decide

/-- V-DIV-A2: quotient over divisor, remainder over dividend. -/
theorem test_divmod_aliased : (ran (loaded 1000 7) 0x04208000).getU 1 = 142 ∧
    (ran (loaded 1000 7) 0x04208000).getU 0 = 6 := by decide

/-- V-DIV-F4: DivideByZero in place. -/
theorem test_divmod_by_zero : ran (loaded 1000 0) 0x04009000 =
    { loaded 1000 0 with fault := 2, fcmd := 0x04009000 } := by decide

/-- V-DIV-F5: IllegalCommand comes before DivideByZero. -/
theorem test_divmod_equal_destinations : ran (loaded 1000 0) 0x0460B000 =
    { loaded 1000 0 with fault := 1, fcmd := 0x0460B000 } := by decide

/-- V-SH-L3. -/
theorem test_shl : (ran (loaded constA 33) 0x05408000).getU 2 =
    0x13579bdffdb97530eca864201e3c5a7896b4d2f10f2d4b6987a5c3e000000000 := by decide

/-- V-SH-L10: the whole amount is compared. -/
theorem test_shl_whole_amount : (ran (loaded constA 0x100000000) 0x05408000).getU 2 = 0 := by decide

/-- V-SH-X2: the top bit is filled with 0. -/
theorem test_shr_logical : (ran (loaded ones 1) 0x06408000).getU 2 = top - 1 := by decide

/-- V-SH-R9: not reduced modulo 256. -/
theorem test_shr_not_reduced : (ran (loaded constA 257) 0x06408000).getU 2 = 0 := by decide

/-- V-SH-I4. -/
theorem test_shli_255 : (ran (loaded constB 0) 0x074000FF).getU 2 = top := by decide

/-- V-SH-I5. -/
theorem test_shli_256 : (ran (loaded constA 0) 0x07400100).getU 2 = 0 := by decide

/-- V-SH-I9. -/
theorem test_shri_128 : (ran (loaded constA 0) 0x08400080).getU 2 = 0x123456789abcdeffedcba9876543210 := by decide

/-- V-SH-I12. -/
theorem test_shri_4095 : (ran (loaded constA 0) 0x08400FFF).getU 2 = 0 := by decide

/-- R105. -/
theorem test_and : (ran (loaded 0xF0F0 0xFF00) 0x09408000).getU 2 = 0xF000 := by decide

/-- R106. -/
theorem test_or : (ran (loaded 0xF0F0 0xFF00) 0x0A408000).getU 2 = 0xFFF0 := by decide

/-- R107. -/
theorem test_xor : (ran (loaded 0xF0F0 0xFF00) 0x0B408000).getU 2 = 0x0FF0 := by decide

/-- R108. -/
theorem test_andn : (ran (loaded 0xF0F0 0xFF00) 0x0C408000).getU 2 = 0x00F0 := by decide

/-- V-LOG-N3. -/
theorem test_not : (ran (loaded constA 0) 0x0D400000).getU 2 = constB := by decide

/-- V-CMP-5: unsigned. -/
theorem test_cmp_less : (ran (loaded 0 ones) 0x0E008000).sres = 0xFFFFFFFF := by decide

/-- V-CMP-10. -/
theorem test_cmp_greater : (ran (loaded 0x100000000 0xFFFFFFFF) 0x0E008000).sres = 1 := by decide

/-- V-POP-2, of the count itself: 256 needs nine bits. -/
theorem test_popcnt_all : popcnt ones = 256 := by decide +kernel

/-- V-POP-8. -/
theorem test_popcnt : (ran (loaded 0x5A 0) 0x0F000000).sres = 4 := by decide +kernel

/-! ### The host's transactions -/

/-- V-HOST-7: the second word is dropped. -/
theorem test_dropped_while_faulted : ran (ran State.reset 0xFFFFFFFF) 0x10000000 =
    { State.reset with fault := 1, fcmd := 0xFFFFFFFF } := by decide

/-- V-HOST-6: ACK leaves FCMD. -/
theorem test_ack : did { State.reset with fault := 2, fcmd := 0x0460C000 } .ack =
    { State.reset with fcmd := 0x0460C000 } := by decide

/-- V-HOST-1: byte 0 is the least significant. -/
theorem test_load_order : (did State.reset (.load 0 (Vector.ofFn (fun k : Fin 32 => BitVec.ofNat 8 k.val)))).getU 0 =
    0x1f1e1d1c1b1a191817161514131211100f0e0d0c0b0a09080706050403020100 := by decide

/-- V-HOST-4: the first two bytes and the last. -/
theorem test_store_order : (imageOf constA).get 0 = 0xf0 ∧ (imageOf constA).get 1 = 0xe1 ∧
    (imageOf constA).get 31 = 0x01 := by decide

/-- P6, step 9. -/
theorem test_csrrd_status : (did { State.reset with fault := 2 } (.csrrd 0)).replies = [.csr 2] := by decide

/-- R129: there is no CSR 3. -/
theorem test_csrrd_no_such : step (State.reset.withPending [.csrrd 3]) = .refused (.noSuchCsr 3) := rfl

/-- R131, R160. -/
theorem test_reset : did { loaded 5 7 with sres := 3, fault := 1, fcmd := 9 } .reset = State.reset := by decide

/-- The next step after `withFetchWord` runs the word, from a faulted state too. -/
theorem test_fetch_word : step ({ loaded 5 7 with fault := 1 }.withFetchWord 32 0x01408000) =
    .next ((loaded 5 7).writeU 2 12) := by rfl

/-- I1: the two reads of one register with no value take two free values, so that CLR of it is not known to be 0. -/
theorem test_unwritten_draws : (ran State.reset 0x0B000000).draws = 2 := by decide

/-- R61. -/
theorem test_assemble : assemble (.mov 0 2) = some 0x0A090000 ∧ assemble (.shli 1 1 255) = some 0x072400FF ∧
    assemble (.shli 1 1 4096) = none ∧ assemble (.divmod 3 3 0 1) = none := by decide

/-- R59: worked encodings from their text, and what an assembler refuses. -/
theorem test_assemble_text : assembleText "ADD u2, u0, u1" = some 0x01408000 ∧
    assembleText "DIVMOD u3, u4, u0, u1" = some 0x0460C000 ∧ assembleText "SHLI u1, u1, #255" = some 0x072400FF ∧
    assembleText "shli u1,u1,#0xff" = some 0x072400FF ∧ assembleText "POPCNT u5" = some 0x0F140000 ∧
    assembleText "CLR u1" = some 0x0B248000 ∧ assembleText "SHLI u1, u1, #4096" = none ∧
    assembleText "DIVMOD u3, u3, u0, u1" = none ∧ assembleText "ADD u8, u0, u1" = none := by decide +kernel

/-- R60. -/
theorem test_read_transaction : readTransaction "LOAD u7, 0x100" = some (.load 7 (imageOf 256)) ∧
    readTransaction "CSRRD SRES" = some (.csrrd 1) ∧ readTransaction "EXEC CMP u2, u0" = some (.exec 0x0E080000) ∧
    readTransaction "NOT u1, u0" = some (.exec 0x0D200000) ∧ readTransaction "ACK" = some .ack ∧
    readTransaction "STORE u3" = some (.store 3) := by decide +kernel

/-- V-HOST-6 and V-HOST-7 as they are written, and a number that is no word. -/
theorem test_read_raw_word : readTransaction "EXEC 0x00000000" = some (.exec 0) ∧
    readTransaction "EXEC 0xFFFFFFFF" = some (.exec 0xFFFFFFFF) ∧ readTransaction "CSRRD 2" = some (.csrrd 2) ∧
    readTransaction "EXEC 0x100000000" = none := by decide +kernel

/-! ### Witnesses: the hypotheses of each statement can be met, each clause at a boundary -/

theorem witness_DecodeInvertsEncode : (Instr.divmod 7 0 7 0).wellFormed = true := by decide

theorem witness_EncodeInvertsDecode : decode 0x01FF8000 = .ok (.add 7 7 7) := by decide

theorem witness_DecodeFollowsOpcodeMap :
    (∃ row ∈ opcodeMap, (0x0F1C0000 : Word) &&& row.2.2 = row.2.1) ∧
    (∀ row ∈ opcodeMap, (0x10000000 : Word) &&& row.2.2 ≠ row.2.1) := by
  simp only [opcodeMap, List.mem_cons, List.not_mem_nil, or_false, exists_eq_or_imp, forall_eq_or_imp, forall_eq,
    exists_eq_left]
  decide

theorem witness_IllegalWords : State.Offered (State.reset.withPending [.exec 0]) (.exec 0) [] ∧
    (State.reset.withPending [.exec 0]).fault = 0 ∧ IllegalWord 0x00408000 ∧ IllegalWord 0x10000000 ∧
    IllegalWord 0x01408001 ∧ IllegalWord 0x0460B000 ∧ ¬ IllegalWord 0x0F1C0000 :=
  ⟨⟨rfl, rfl⟩, rfl, by decide, by decide, by decide, by decide, by decide⟩

theorem witness_StepRunsDecodedCommand :
    State.Offered ((loaded 1 2).withPending [.exec 0x01408000, .ack]) (.exec 0x01408000) [.ack] ∧
    (loaded 1 2).fault = 0 ∧ decode 0x01408000 = .ok (.add 2 0 1) ∧ (Instr.add 2 0 1).wellFormed = true :=
  ⟨⟨rfl, rfl⟩, rfl, by decide, rfl⟩

/-- A faulted state with the transaction `x` offered: for `ExecIsDroppedWhileFaulted`, each of its clauses. -/
theorem witness_ExecIsDroppedWhileFaulted (x : Transaction) :
    State.Offered ({ loaded 1 2 with fault := 2 }.withPending [x]) x [] ∧ (2 : BitVec 4) ≠ 0 :=
  ⟨⟨rfl, rfl⟩, by decide⟩

theorem witness_OneFaultPerExec : (loaded 1 0).dividesByZero (.divmod 3 4 0 1) ∧
    ¬ (loaded 1 1).dividesByZero (.divmod 3 4 0 1) ∧ decode 0x0460C000 = .ok (.divmod 3 4 0 1) ∧
    decode 0 = .error .reservedOpcode ∧
    State.Offered ((loaded 1 0).withPending [.exec 0x0460C000]) (.exec 0x0460C000) [] :=
  ⟨show (loaded 1 0).operandB 0 1 = 0 by decide, show ¬ (loaded 1 1).operandB 0 1 = 0 by decide, by decide,
    by decide, ⟨rfl, rfl⟩⟩

theorem witness_FaultEntry : ∃ t, step ((loaded 1 0).withPending [.exec 0x0460C000]) = .next t ∧ t.fault ≠ 0 :=
  ⟨{ loaded 1 0 with fault := 2, fcmd := 0x0460C000 }, rfl, by decide⟩

theorem witness_AckReturnsFromFault :
    State.Offered ((loaded 1 2).withPending [.ack, .exec 0x01408000]) .ack [.exec 0x01408000] ∧
    (loaded 1 2).fault = 0 ∧ decode 0x01408000 = .ok (.add 2 0 1) := ⟨⟨rfl, rfl⟩, rfl, by decide⟩

theorem witness_FaultChanges :
    (∃ t, step ((loaded 1 0).withPending [.exec 0]) = .next t ∧ t.fault ≠ (loaded 1 0).fault) ∧
    (∃ t, step ({ loaded 1 0 with fault := 1 }.withPending [.ack]) = .next t ∧ t.fault ≠ 1) :=
  ⟨⟨{ loaded 1 0 with fault := 1 }, rfl, by decide⟩, ⟨loaded 1 0, rfl, by decide⟩⟩

/-- CSRRD of any number can be offered: 0, 1, 2 and the boundary 3 among them. -/
theorem witness_CsrrdReturnsControlRegister (k : Nat) :
    State.Offered (State.reset.withPending [.csrrd k]) (.csrrd k) [] := ⟨rfl, rfl⟩

theorem witness_LoadWritesWholeRegister :
    State.Offered (State.reset.withPending [.load 7 (imageOf ones)]) (.load 7 (imageOf ones)) [] := ⟨rfl, rfl⟩

/-- The STORE after the LOAD comes from another state too, faulted, with other registers changed. -/
theorem witness_StoreReturnsLittleEndianImage :
    State.Offered ((loaded constA 0).withPending [.store 0]) (.store 0) [] ∧
    State.Offered (State.reset.withPending [.load 0 (imageOf 1)]) (.load 0 (imageOf 1)) [] ∧
    (∃ t, step (State.reset.withPending [.load 0 (imageOf 1)]) = .next t ∧
      ({ loaded 1 9 with fault := 1 }.withPending [.store 0]).isWritten 0 = true ∧
      ({ loaded 1 9 with fault := 1 }.withPending [.store 0]).getU 0 = t.getU 0) :=
  ⟨⟨rfl, rfl⟩, ⟨rfl, rfl⟩, _, rfl, by decide, by decide⟩

theorem witness_ResetLeavesStatedValues :
    (loaded 1 2 |>.withPending [.reset]).pending = .reset :: [] ∧
    (∃ t, step (State.reset.withPending [.load 7 (imageOf 0)]) = .next t ∧ State.reset.isWritten 7 = false ∧
      t.isWritten 7 = true) ∧
    (∃ t, step ((loaded 1 2).withPending [.exec 0x01408000]) = .next t ∧ (loaded 1 2).isWritten 2 = false ∧
      t.isWritten 2 = true) :=
  ⟨rfl, ⟨_, rfl, by decide, by decide⟩, ⟨_, rfl, by decide, by decide⟩⟩

theorem witness_OnlyResetMakesRegistersUnspecified :
    ∃ t, step ((loaded 1 2).withPending [.reset]) = .next t ∧ (loaded 1 2).isWritten 1 = true ∧
      t.isWritten 1 = false := ⟨_, rfl, by decide, by decide⟩

theorem witness_RefusedTransactions :
    ({ State.reset with resetDone := false }.withPending [.ack]).resetDone = false ∧ Transaction.ack ≠ .reset ∧
    (State.reset.withPending [.csrrd 3]).resetDone = true ∧
    (State.reset.withPending [.csrrd 3]).pending = [.csrrd 3] := by decide

theorem witness_UnwrittenReads : State.reset.isWritten 7 = false ∧ (loaded 1 2).isWritten 1 = true ∧
    (∃ t, exec (.xor 7 7 7) State.reset = .next t) ∧
    (∀ r ∈ (Instr.add 2 0 1).sources, (loaded 1 2).isWritten r = true) ∧
    (∃ t, exec (.add 2 0 1) (loaded 1 2) = .next t) :=
  ⟨by decide, by decide, ⟨_, rfl⟩, by decide, ⟨_, rfl⟩⟩

theorem witness_OnlyStoreAndCsrrdReturnValues : (∃ t, step ((loaded 1 2).withPending [.store 1]) = .next t) ∧
    State.reset.pending = [] := ⟨⟨_, rfl⟩, rfl⟩

theorem witness_SresWritten :
    (∃ t, step ((loaded 1 2).withPending [.exec 0x0E008000]) = .next t ∧ t.sres ≠ (loaded 1 2).sres) ∧
    (∃ t, step ({ loaded 1 2 with sres := 3 }.withPending [.reset]) = .next t ∧ t.sres ≠ 3) :=
  ⟨⟨_, rfl, by decide⟩, ⟨_, rfl, by decide⟩⟩

theorem witness_FcmdKeeps :
    (∃ t, step ((loaded 1 0).withPending [.exec 0x0460C000]) = .next t ∧ t.fcmd ≠ (loaded 1 0).fcmd ∧ t.fault ≠ 0) ∧
    (∃ t, step ({ loaded 1 2 with fcmd := 3 }.withPending [.reset]) = .next t ∧ t.fcmd ≠ 3) :=
  ⟨⟨{ loaded 1 0 with fault := 2, fcmd := 0x0460C000 }, rfl, by decide, by decide⟩, ⟨_, rfl, by decide⟩⟩

theorem witness_CommandsWriteOnlyTheirDestinations : (∃ t, exec (.divmod 2 3 0 1) (loaded 1 2) = .next t) ∧
    (∃ t, step ((loaded 1 0).withPending [.exec 0x0460C000]) = .next t ∧ t.fault ≠ 0) :=
  ⟨⟨_, rfl⟩, ⟨{ loaded 1 0 with fault := 2, fcmd := 0x0460C000 }, rfl, by decide⟩⟩

/-- In-place and pure forms of one division, and one whose two sources are different registers of equal value. -/
theorem witness_ResultIndependent :
    (Instr.divmod 0 1 0 1).opcode = (Instr.divmod 2 3 1 0).opcode ∧ (Instr.divmod 0 1 0 1).wellFormed = true ∧
    (Instr.divmod 2 3 1 0).wellFormed = true ∧
    (∀ r ∈ (Instr.divmod 0 1 0 1).sources, (loaded 5 5).isWritten r = true) ∧
    (Instr.divmod 0 1 0 1).sources.map (loaded 5 5).getU = (Instr.divmod 2 3 1 0).sources.map (loaded 5 5).getU ∧
    (loaded 5 5).fault = 0 ∧ (∃ t, exec (.divmod 0 1 0 1) (loaded 5 5) = .next t) ∧
    (∃ t, exec (.divmod 2 3 1 0) (loaded 5 5) = .next t) :=
  ⟨rfl, rfl, rfl, by decide, by decide, rfl, ⟨_, rfl⟩, ⟨_, rfl⟩⟩

theorem witness_Divmod : (2 : Reg) ≠ 3 ∧ (loaded 1 1).operandB 0 1 ≠ 0 ∧ (loaded 1 0).operandB 0 1 = 0 := by decide

theorem witness_DivmodByZero : (loaded 1 0).isWritten 1 = true ∧ (loaded 1 0).getU 1 = 0 ∧ (2 : Reg) ≠ 3 ∧
    (loaded 1 0).operandB 0 1 = 0 := by decide

theorem witness_EqualDestinations : State.Offered ((loaded 1 0).withPending [.exec 0x0460B000]) (.exec 0x0460B000) [] ∧
    (loaded 1 0).fault = 0 ∧ opField 0x0460B000 = 0x04 ∧ rdField 0x0460B000 = rd2Field 0x0460B000 ∧
    (Instr.divmod 3 3 0 1).wellFormed = false := ⟨⟨rfl, rfl⟩, rfl, by decide, by decide, by decide⟩

theorem witness_DivisionLaw : (2 : Reg) ≠ 3 ∧ (loaded 1 1).isWritten 0 = true ∧ (loaded 1 1).isWritten 1 = true ∧
    (loaded 1 1).getU 1 ≠ 0 := by decide

theorem witness_Amounts : (loaded 1 256).isWritten 1 = true ∧ ((loaded 1 256).getU 1).toNat ≥ 256 ∧
    (∃ t, exec (.shl 2 0 1) (loaded 1 256) = .next t) ∧ (∃ t, exec (.shr 2 0 1) (loaded 1 256) = .next t) ∧
    (256 : BitVec 12).toNat ≥ 256 ∧ (∃ t, exec (.shli 2 0 256) (loaded 1 256) = .next t) ∧
    (∃ t, exec (.shri 2 0 256) (loaded 1 256) = .next t) :=
  ⟨by decide, by decide, ⟨_, rfl⟩, ⟨_, rfl⟩, by decide, ⟨_, rfl⟩, ⟨_, rfl⟩⟩

theorem witness_OnesComplement : (loaded 1 2).isWritten 0 = true ∧ (2 : Reg) ≠ 0 ∧
    ∃ t t', exec (.not 2 0) (loaded 1 2) = .next t ∧ exec (.add 3 0 2) t = .next t' :=
  ⟨by decide, by decide, _, _, rfl, rfl⟩

theorem witness_ShlEqualsMul : (loaded 255 top).isWritten 0 = true ∧ (loaded 255 top).isWritten 1 = true ∧
    ((loaded 255 top).getU 0).toNat < 256 ∧
    ((loaded 255 top).getU 1).toNat = 2 ^ ((loaded 255 top).getU 0).toNat ∧
    (∃ t, exec (.shl 2 0 0) (loaded 255 top) = .next t) ∧
    (∃ t, exec (.mul 2 0 1) (loaded 255 top) = .next t) :=
  ⟨by decide, by decide, by decide, by decide, ⟨_, rfl⟩, ⟨_, rfl⟩⟩

theorem witness_CmpAfterAdd : (loaded ones 1).isWritten 0 = true ∧ (loaded ones 1).isWritten 1 = true ∧
    (2 : Reg) ≠ 0 ∧ ∃ t t', exec (.add 2 0 1) (loaded ones 1) = .next t ∧ exec (.cmp 2 0) t = .next t' :=
  ⟨by decide, by decide, by decide, _, _, rfl, rfl⟩

theorem witness_SresReadings : (loaded 1 2).isWritten 0 = true ∧ (loaded 1 2).isWritten 1 = true ∧
    ∃ t, exec (.cmp 0 1) (loaded 1 2) = .next t := ⟨by decide, by decide, _, rfl⟩

theorem witness_Pseudo : (loaded 1 2).isWritten 0 = true ∧ (loaded 1 2).isWritten 1 = true := by decide

theorem witness_Assembler : assemble (.shli 7 7 4095) = some 0x07FC0FFF := by decide

/-- The limb widths of the datapath statements: the spec's own, and the two extremes. -/
theorem witness_limbs : Config.limbWidth * Config.limbCount = 256 ∧ 1 * 256 = 256 ∧ 256 * 1 = 256 := by decide

theorem witness_accumulator : 0xFFFFFFFF < 2 ^ 32 := by decide

theorem witness_divider : (1 : U256) ≠ 0 := by decide

theorem witness_EveryStepKeepsInvariant : State.reset.Inv ∧ ∃ t, step State.reset = .next t :=
  ⟨{ faultCode := .inl rfl
     sresRange := .inr (by decide)
     illegalWord := fun h => absurd h (by decide)
     divmodWord := fun h => absurd h (by decide)
     faultingWord := fun i h => absurd h (by
      rw [show decode State.reset.fcmd = .error .reservedOpcode by decide]
      exact fun h => nomatch h) }, _, rfl⟩

theorem witness_Batch : (loaded 1 2).resetDone = true ∧ (loaded 1 2).fault = 0 ∧
    ((loaded 1 2).withPending [.exec 0x01408000, .exec 0x0E008000, .csrrd 0]).pending =
      [0x01408000, 0x0E008000].map Transaction.exec ++ [.csrrd 0] ∧
    ∃ t, Sys2Proof.core.run 2 ((loaded 1 2).withPending [.exec 0x01408000, .exec 0x0E008000, .csrrd 0]) = .next t ∧
      t.fault = 0 := ⟨rfl, rfl, rfl, _, rfl, rfl⟩

/-- A host that reads STATUS and, since it is 1, acknowledges. -/
def acknowledging : Program
  | 0, _ => some (.exec 0)
  | 1, _ => some (.csrrd 0)
  | 2, [.csr 1] => some .ack
  | _, _ => none

theorem witness_ProgramRun : State.reset.pending = [] ∧
    ∃ t, runProgram acknowledging 9 0 State.reset = .next t ∧ t.fault = 0 ∧ t.replies = [.csr 1] :=
  ⟨rfl, { State.reset with replies := [.csr 1] }, rfl, rfl, rfl⟩

/-- R134: a run with a dropped EXEC went wrong although it ends unfaulted, and so did one that ends faulted. -/
theorem test_went_wrong :
    (State.reset.withPending [.exec 0, .exec 0x01408000, .ack]).wentWrong 3 = some true ∧
    (State.reset.withPending [.exec 0]).wentWrong 1 = some true ∧
    ((loaded 1 2).withPending [.exec 0x01408000, .store 2]).wentWrong 2 = some false := ⟨rfl, rfl, rfl⟩

/-- Log 24: no answer for a run that meets a transaction with no meaning, a dropped EXEC before it or none. -/
theorem test_went_wrong_no_meaning :
    (State.reset.withPending [.exec 0, .exec 0, .csrrd 3]).wentWrong 3 = none ∧
    ({ State.reset with resetDone := false, fault := 1 }.withPending [.exec 0]).wentWrong 1 = none := ⟨rfl, rfl⟩

/-- Log 23: a register with no specified value shows none, and a LOADed one its value. -/
theorem test_final : (loaded 5 7).final.1.get 1 = some 7 ∧ (loaded 5 7).final.1.get 2 = none := by decide

end Sys2Proof.Tests
end

/-! PROOFS. The statements about the state (10_state.md): which transactions and commands write STATUS, SRES, FCMD and
the U registers, and that a command's results depend on nothing but the values of its sources. -/

namespace Sys2Proof

/-! ### The word of a decoded command -/

/-- No bit of a command word is a don't-care (R55): a word is rebuilt from its opcode and its fields. -/
theorem packWord_of_opField {w : Word} {op : BitVec 8} (hop : opField w = op) :
    packWord op (rdField w) (rs1Field w) (rs2Field w) (rd2Field w) (immField w) = w := by
  rw [← hop, packWord_fields]

theorem opField_of_toNat {w : Word} {n : Nat} (h : (opField w).toNat = n) : opField w = BitVec.ofNat 8 n := by
  rw [← h, BitVec.ofNat_toNat, BitVec.setWidth_eq]

theorem encode_of_decodeR3 {mk : Reg → Reg → Reg → Instr} {op : BitVec 8} {w : Word} {i : Instr}
    (h : decodeR3 mk w = .ok i) (hop : opField w = op)
    (henc : ∀ rd rs1 rs2, encode (mk rd rs1 rs2) = packWord op rd rs1 rs2 0 0) : encode i = w := by
  unfold decodeR3 at h
  split at h
  · next hz =>
    obtain ⟨hrd2, himm⟩ := hz
    cases h
    conv_rhs => rw [← packWord_of_opField hop, hrd2, himm]
    exact henc _ _ _
  · cases h

theorem encode_of_decodeRI {mk : Reg → Reg → BitVec 12 → Instr} {op : BitVec 8} {w : Word} {i : Instr}
    (h : decodeRI mk w = .ok i) (hop : opField w = op)
    (henc : ∀ rd rs1 imm, encode (mk rd rs1 imm) = packWord op rd rs1 0 0 imm) : encode i = w := by
  unfold decodeRI at h
  split at h
  · next hz =>
    obtain ⟨hrs2, hrd2⟩ := hz
    cases h
    conv_rhs => rw [← packWord_of_opField hop, hrs2, hrd2]
    exact henc _ _ _
  · cases h

theorem encode_of_decodeR4 {w : Word} {i : Instr} (h : decodeR4 w = .ok i) (hop : opField w = 0x04) :
    encode i = w := by
  unfold decodeR4 at h
  split at h
  · cases h
  · next hz =>
    split at h
    · cases h
    · cases h
      conv_rhs => rw [← packWord_of_opField hop, not_not.mp hz]
      rfl

theorem encode_of_decodeR2 {w : Word} {i : Instr} (h : decodeR2 w = .ok i) (hop : opField w = 0x0D) :
    encode i = w := by
  unfold decodeR2 at h
  split at h
  · next hz =>
    obtain ⟨hrs2, hrd2, himm⟩ := hz
    cases h
    conv_rhs => rw [← packWord_of_opField hop, hrs2, hrd2, himm]
    rfl
  · cases h

theorem encode_of_decodeS2 {w : Word} {i : Instr} (h : decodeS2 w = .ok i) (hop : opField w = 0x0E) :
    encode i = w := by
  unfold decodeS2 at h
  split at h
  · next hz =>
    obtain ⟨hrd, hrd2, himm⟩ := hz
    cases h
    conv_rhs => rw [← packWord_of_opField hop, hrd, hrd2, himm]
    rfl
  · cases h

theorem encode_of_decodeS1 {w : Word} {i : Instr} (h : decodeS1 w = .ok i) (hop : opField w = 0x0F) :
    encode i = w := by
  unfold decodeS1 at h
  split at h
  · next hz =>
    obtain ⟨hrd, hrs2, hrd2, himm⟩ := hz
    cases h
    conv_rhs => rw [← packWord_of_opField hop, hrd, hrs2, hrd2, himm]
    rfl
  · cases h

/-- A word that decodes is the word of its command, so that the word a fault records, `encode` of the command
(assumption log 7), is the word that was offered. -/
theorem encode_of_decode {w : Word} {i : Instr} (h : decode w = .ok i) : encode i = w := by
  unfold decode at h
  split at h
  case h_1 hop | h_2 hop | h_3 hop | h_5 hop | h_6 hop | h_9 hop | h_10 hop | h_11 hop | h_12 hop =>
    exact encode_of_decodeR3 h (opField_of_toNat hop) (fun _ _ _ => rfl)
  case h_4 hop => exact encode_of_decodeR4 h (opField_of_toNat hop)
  case h_7 hop | h_8 hop => exact encode_of_decodeRI h (opField_of_toNat hop) (fun _ _ _ => rfl)
  case h_13 hop => exact encode_of_decodeR2 h (opField_of_toNat hop)
  case h_14 hop => exact encode_of_decodeS2 h (opField_of_toNat hop)
  case h_15 hop => exact encode_of_decodeS1 h (opField_of_toNat hop)
  case h_16 => cases h

end Sys2Proof

namespace Sys2Proof.Machine

/-! ### What a step can do to the control registers -/

/-- A step in which an EXEC is offered to a reset block performs that EXEC (R128). -/
theorem step_of_offered_exec {s : State} {w : Word} {rest : List Transaction} (h : s.Offered (.exec w) rest) :
    step s = performExec w (s.withPending rest) := by
  obtain ⟨hreset, hpending⟩ := h
  rw [step_of_pending hpending, issue, onceReset, State.resetDone_withPending, if_pos hreset]

/-- A faulted block drops every EXEC (R148). -/
theorem performExec_of_faulted {w : Word} {s : State} (h : s.fault ≠ 0) : performExec w s = .next s := by
  rcases performExec_cases w s with ⟨-, hdrop⟩ | ⟨h0, -⟩ | ⟨h0, -⟩
  · exact hdrop
  · exact absurd h0 h
  · exact absurd h0 h

/-- What an EXEC offered to an unfaulted block can do: fault, writing nothing but FAULT and FCMD (R146), or complete
the command it decodes to, which leaves FAULT and FCMD as they were. -/
theorem performExec_unfaulted_cases {w : Word} {s t : State} (h : performExec w s = .next t) (hs : s.fault = 0) :
    ((t.fault = 1 ∨ t.fault = 2) ∧ t.fcmd = w ∧ State.KeepsRegistersBut [] s t ∧ t.sres = s.sres) ∨
    (t.fault = 0 ∧ t.fcmd = s.fcmd ∧ ∃ i, decode w = .ok i ∧ exec i s = .next t) := by
  rcases performExec_cases w s with ⟨hne, -⟩ | ⟨-, -, hill⟩ | ⟨-, i, hd, hexec⟩
  · exact absurd hs hne
  · rw [hill] at h
    cases h
    exact .inl ⟨.inl rfl, rfl, fun q _ => ⟨rfl, rfl⟩, rfl⟩
  · rw [hexec] at h
    obtain ⟨-, ⟨-, -, hfault, hfcmd, -⟩ | ⟨hregs, hsres, hfcmd, rd, rd2, rs1, rs2, -, hcode⟩⟩ := exec_cases h
    · exact .inr ⟨hfault.trans hs, hfcmd, i, hd, h⟩
    · have hcode : t.fault = 1 ∨ t.fault = 2 := hcode.imp (·.2) (·.2.2)
      exact .inl ⟨hcode, hfcmd.trans (encode_of_decode hd), hregs, hsres⟩

/-- Everything a step can do to STATUS, SRES and FCMD: nothing (LOAD, STORE, CSRRD, a dropped EXEC, no transaction),
or what RESET, ACK or an EXEC that is not dropped does. -/
theorem step_control_cases {s t : State} (h : step s = .next t) :
    (t.fault = s.fault ∧ t.sres = s.sres ∧ t.fcmd = s.fcmd) ∨
    (∃ rest, s.pending = .reset :: rest ∧ t = (s.withPending rest).clear) ∨
    (∃ rest, s.pending = .ack :: rest ∧ t = (s.withPending rest).acknowledge) ∨
    (∃ w rest, s.pending = .exec w :: rest ∧ s.fault = 0 ∧ performExec w (s.withPending rest) = .next t) := by
  rcases step_cases h with ⟨-, rfl⟩ | ⟨x, rest, hp, hx⟩
  · exact .inl ⟨rfl, rfl, rfl⟩
  rcases issue_cases hx with ⟨rfl, ht⟩ | ⟨-, hload | hstore | hexec | hcsrrd | hack⟩
  · exact .inr (.inl ⟨rest, hp, ht⟩)
  · obtain ⟨i, bytes, -, rfl⟩ := hload
    exact .inl ⟨rfl, rfl, rfl⟩
  · obtain ⟨i, -, rfl⟩ := hstore
    exact .inl (by simp)
  · obtain ⟨w, rfl, hw⟩ := hexec
    by_cases hs : s.fault = 0
    · exact .inr (.inr (.inr ⟨w, rest, hp, hs, hw⟩))
    · rw [performExec_of_faulted (s := s.withPending rest) hs] at hw
      cases hw
      exact .inl ⟨rfl, rfl, rfl⟩
  · obtain ⟨k, -, hk⟩ := hcsrrd
    obtain ⟨v, rfl, -⟩ := performCsrrd_cases hk
    exact .inl ⟨rfl, rfl, rfl⟩
  · obtain ⟨rfl, ht⟩ := hack
    exact .inr (.inr (.inl ⟨rest, hp, ht⟩))

/-- RESET is accepted in every state, reset or not (R131, R161). -/
theorem step_of_pending_reset {s : State} {rest : List Transaction} (h : s.pending = .reset :: rest) :
    step s = .next (s.withPending rest).clear := step_of_pending h

/-- A step that answers a next state, an EXEC at the head of the host's list, performs that EXEC. -/
theorem performExec_of_step {s t : State} {w : Word} {rest : List Transaction} (hp : s.pending = .exec w :: rest)
    (h : step s = .next t) : performExec w (s.withPending rest) = .next t := by
  rw [step_of_pending hp] at h
  exact (onceReset_next h).2

theorem State.KeepsRegistersBut.mono {s t : State} {ds es : List Reg} (h : State.KeepsRegistersBut ds s t)
    (hsub : ds ⊆ es) : State.KeepsRegistersBut es s t :=
  fun q hq => h q (fun hd => hq (hsub hd))

/-- A command that changes SRES is a CMP or a POPCNT. -/
theorem exec_sres_cases {i : Instr} {s t : State} (h : exec i s = .next t) (hne : t.sres ≠ s.sres) :
    (∃ rs1 rs2, i = .cmp rs1 rs2) ∨ (∃ rs1, i = .popcnt rs1) := by
  obtain ⟨-, ⟨-, -, -, -, hsres | ⟨rs1, rs2, hi, -⟩ | ⟨rs1, hi, -⟩⟩ | ⟨-, hsres, -⟩⟩ := exec_cases h
  · exact absurd hsres hne
  · exact .inl ⟨rs1, rs2, hi⟩
  · exact .inr ⟨rs1, hi⟩
  · exact absurd hsres hne

theorem faultCode_ne_zero {c : BitVec 4} (h : c = 1 ∨ c = 2) : c ≠ 0 := by
  rcases h with rfl | rfl <;> decide

/-! ### STATUS as read -/

theorem status_low_bits (s : State) : s.status.extractLsb' 0 4 = s.fault := by
  ext k hk
  simp [State.status, hk, show k < 32 by omega]

theorem status_high_bits (s : State) : s.status.extractLsb' 4 28 = 0 := by
  ext k hk
  simp [State.status]

/-! ### Operands and scalar results -/

theorem State.reads_operandA (s : State) (rs1 : Reg) : s.Reads rs1 (s.operandA rs1) := State.operandA_of_written

theorem State.reads_operandB (s : State) (rs1 rs2 : Reg) : s.Reads rs2 (s.operandB rs1 rs2) :=
  State.operandB_of_written

/-- The value CMP writes is -1, 0 or 1, sign-extended, and 0 exactly for equal operands (R18, R115). -/
theorem compareCode_eq_ofInt (a b : U256) :
    ∃ c : Int, compareCode a b = BitVec.ofInt 32 c ∧ (c = -1 ∨ c = 0 ∨ c = 1) ∧ (c = 0 ↔ a = b) := by
  unfold compareCode
  split
  · next hlt =>
    have hne : a ≠ b := fun hab => Nat.lt_irrefl _ (hab ▸ hlt)
    exact ⟨-1, rfl, .inl rfl, by simpa using hne⟩
  · split
    · next hab => exact ⟨0, rfl, .inr (.inl rfl), by simpa using hab⟩
    · next hab => exact ⟨1, rfl, .inr (.inr rfl), by simpa using hab⟩

theorem popcnt_le (v : U256) : popcnt v ≤ 256 := by
  have h := List.sum_le_card_nsmul ((List.range 256).map (fun i => (v.getLsbD i).toNat)) 1
    (by simpa using fun i _ => Bool.toNat_le (v.getLsbD i))
  simpa [popcnt] using h

theorem toNat_popcountCode (v : U256) : (popcountCode v).toNat = popcnt v := by
  have h := popcnt_le v
  rw [popcountCode, BitVec.toNat_ofNat, Nat.mod_eq_of_lt (by omega)]

/-! ### A command's results as a function of its source values -/

/-- What a completed command leaves: STATUS.FAULT, SRES where it writes it, and the values of its destinations. -/
structure Results where
  fault : BitVec 4
  sres : Option Word
  dests : List U256

/-- A command that writes U registers. -/
def Results.values (vs : List U256) : Results := ⟨0, none, vs⟩

/-- A command that writes SRES. -/
def Results.scalar (v : Word) : Results := ⟨0, some v, []⟩

/-- DIVMOD: DivideByZero, or the quotient and the remainder (R85, R86). -/
def divmodResults (a b : U256) : Results :=
  if b = 0 then ⟨divideByZero, none, []⟩ else .values [quotient a b, remainder a b]

/-- The results of an operation, by its opcode, from its immediate and the values of its sources alone: no register
is named here (R20). -/
def resultsOf (op imm : Nat) : List U256 → Results
  | [a] =>
    match op with
    | 0x07 => .values [shiftLeft a imm]
    | 0x08 => .values [shiftRight a imm]
    | 0x0D => .values [~~~a]
    | 0x0F => .scalar (popcountCode a)
    | _ => .values []
  | [a, b] =>
    match op with
    | 0x01 => .values [addWrap a b]
    | 0x02 => .values [subWrap a b]
    | 0x03 => .values [mulWrap a b]
    | 0x04 => divmodResults a b
    | 0x05 => .values [shiftLeft a b.toNat]
    | 0x06 => .values [shiftRight a b.toNat]
    | 0x09 => .values [a &&& b]
    | 0x0A => .values [a ||| b]
    | 0x0B => .values [a ^^^ b]
    | 0x0C => .values [a &&& ~~~b]
    | 0x0E => .scalar (compareCode a b)
    | _ => .values []
  | _ => .values []

/-- `t` shows the results `r` of a command with destinations `ds` run from `s`. -/
def Results.ShownBy (r : Results) (ds : List Reg) (s t : State) : Prop :=
  t.fault = r.fault ∧ t.sres = r.sres.getD s.sres ∧ (t.fault = 0 → ds.map t.getU = r.dests)

section

variable {s t : State} (hs : s.fault = 0)
include hs

theorem Results.shownBy_writeU (rd : Reg) (v : U256) :
    (Results.values [v]).ShownBy [rd] s (s.writeU rd v) :=
  ⟨hs, rfl, fun _ => by simp [Results.values]⟩

theorem Results.shownBy_writeSres (v : Word) : (Results.scalar v).ShownBy [] s (s.writeSres v) :=
  ⟨hs, rfl, fun _ => rfl⟩

variable {rs1 rs2 : Reg}

theorem runR3_shows {f : U256 → U256 → U256} {rd : Reg} (hw : ∀ r ∈ [rs1, rs2], s.isWritten r = true)
    (h : runR3 f rd rs1 rs2 s = .next t) :
    (Results.values [f (s.getU rs1) (s.getU rs2)]).ShownBy [rd] s t := by
  cases h
  rw [State.operandA_of_written (hw rs1 (by simp)), State.operandB_of_written (hw rs2 (by simp)),
    State.afterReads_of_written (hw rs1 (by simp)) (hw rs2 (by simp))]
  exact Results.shownBy_writeU hs rd _

theorem runRI_shows {f : U256 → Nat → U256} {rd : Reg} {imm : BitVec 12}
    (hw : ∀ r ∈ [rs1], s.isWritten r = true) (h : runRI f rd rs1 imm s = .next t) :
    (Results.values [f (s.getU rs1) imm.toNat]).ShownBy [rd] s t := by
  cases h
  rw [State.operandA_of_written (hw rs1 (by simp)), State.afterRead_of_written (hw rs1 (by simp))]
  exact Results.shownBy_writeU hs rd _

theorem runR2_shows {f : U256 → U256} {rd : Reg} (hw : ∀ r ∈ [rs1], s.isWritten r = true)
    (h : runR2 f rd rs1 s = .next t) : (Results.values [f (s.getU rs1)]).ShownBy [rd] s t := by
  cases h
  rw [State.operandA_of_written (hw rs1 (by simp)), State.afterRead_of_written (hw rs1 (by simp))]
  exact Results.shownBy_writeU hs rd _

theorem runS2_shows {f : U256 → U256 → Word} (hw : ∀ r ∈ [rs1, rs2], s.isWritten r = true)
    (h : runS2 f rs1 rs2 s = .next t) : (Results.scalar (f (s.getU rs1) (s.getU rs2))).ShownBy [] s t := by
  cases h
  rw [State.operandA_of_written (hw rs1 (by simp)), State.operandB_of_written (hw rs2 (by simp)),
    State.afterReads_of_written (hw rs1 (by simp)) (hw rs2 (by simp))]
  exact Results.shownBy_writeSres hs _

theorem runS1_shows {f : U256 → Word} (hw : ∀ r ∈ [rs1], s.isWritten r = true)
    (h : runS1 f rs1 s = .next t) : (Results.scalar (f (s.getU rs1))).ShownBy [] s t := by
  cases h
  rw [State.operandA_of_written (hw rs1 (by simp)), State.afterRead_of_written (hw rs1 (by simp))]
  exact Results.shownBy_writeSres hs _

/-- DIVMOD with two destinations: the order of its two writes does not show. -/
theorem execDivmod_shows {rd rd2 : Reg} (hr : rd ≠ rd2) (hw : ∀ r ∈ [rs1, rs2], s.isWritten r = true)
    (h : execDivmod rd rd2 rs1 rs2 s = .next t) :
    (divmodResults (s.getU rs1) (s.getU rs2)).ShownBy [rd, rd2] s t := by
  cases h
  rw [if_neg hr, State.operandA_of_written (hw rs1 (by simp)), State.operandB_of_written (hw rs2 (by simp)),
    State.afterReads_of_written (hw rs1 (by simp)) (hw rs2 (by simp))]
  rcases State.divide_cases s (encode (.divmod rd rd2 rs1 rs2)) rd rd2 (s.getU rs1) (s.getU rs2) with
    ⟨hb, hd⟩ | ⟨hb, hd⟩
  · rw [hd, divmodResults, if_pos hb]
    exact ⟨rfl, rfl, fun h2 => absurd h2 (by simp [divideByZero])⟩
  · rw [hd, divmodResults, if_neg hb]
    exact ⟨hs, rfl, fun _ => by simp [Results.values, hr]⟩

/-- A command whose sources have specified values shows the results of its operation on those values, since it reads
all its sources before it writes (R20). -/
theorem exec_shows_resultsOf {i : Instr} (hwf : i.wellFormed = true)
    (hw : ∀ r ∈ i.sources, s.isWritten r = true) (h : exec i s = .next t) :
    (resultsOf i.opcode.toNat (immediate i) (i.sources.map s.getU)).ShownBy i.dests s t := by
  cases i with
  | divmod rd rd2 rs1 rs2 => exact execDivmod_shows hs (of_decide_eq_true hwf) hw h
  | shli rd rs1 imm | shri rd rs1 imm => exact runRI_shows hs hw h
  | not rd rs1 => exact runR2_shows hs hw h
  | cmp rs1 rs2 => exact runS2_shows hs hw h
  | popcnt rs1 => exact runS1_shows hs hw h
  | shl rd rs1 rs2 => exact runR3_shows (f := fun a n => shiftLeft a n.toNat) hs hw h
  | shr rd rs1 rs2 => exact runR3_shows (f := fun a n => shiftRight a n.toNat) hs hw h
  | andn rd rs1 rs2 => exact runR3_shows (f := fun a b => a &&& ~~~b) hs hw h
  | _ rd rs1 rs2 => exact runR3_shows hs hw h

end

end Sys2Proof.Machine

namespace Sys2Proof.Proofs

open Sys2Proof.Machine

/-- Settles O11: of the steps that write STATUS, an EXEC sets a code only in an unfaulted block, and ACK and RESET
clear it. -/
theorem faultChangesOnlyBetweenZeroAndOneCode : Obligations.FaultChangesOnlyBetweenZeroAndOneCode := by
  refine ⟨fun s t h hne => ?_, fun s => ⟨?_, ?_⟩, rfl⟩
  · rcases step_control_cases h with ⟨hfault, -, -⟩ | ⟨rest, hp, rfl⟩ | ⟨rest, hp, rfl⟩ | ⟨w, rest, hp, hs, hw⟩
    · exact absurd hfault hne
    · exact .inr ⟨rfl, rest, .inr hp⟩
    · exact .inr ⟨rfl, rest, .inl hp⟩
    · rcases performExec_unfaulted_cases hw hs with ⟨hcode, -⟩ | ⟨hfault, -⟩
      · exact .inl ⟨hs, hcode, w, rest, hp⟩
      · exact absurd (hfault.trans hs.symm) hne
  · exact status_low_bits s
  · exact status_high_bits s

/-- Settles O20: of the steps that write SRES, an EXEC does so only by a completed CMP or POPCNT. -/
theorem sresWrittenOnlyByCmpPopcntReset : Obligations.SresWrittenOnlyByCmpPopcntReset := by
  refine ⟨fun s t h hne => ?_, fun s rs1 rs2 => ?_, fun s rs1 => ?_, fun s t rest hp h => ?_, rfl⟩
  · rcases step_control_cases h with ⟨-, hsres, -⟩ | ⟨rest, hp, -⟩ | ⟨rest, -, rfl⟩ | ⟨w, rest, hp, hs, hw⟩
    · exact absurd hsres hne
    · exact .inl ⟨rest, hp⟩
    · exact absurd rfl hne
    · rcases performExec_unfaulted_cases hw hs with ⟨-, -, -, hsres⟩ | ⟨-, -, i, hd, hexec⟩
      · exact absurd hsres hne
      · exact .inr ⟨w, rest, hp, hs, (exec_sres_cases hexec hne).imp
          (fun ⟨rs1, rs2, hi⟩ => ⟨rs1, rs2, hi ▸ hd⟩) (fun ⟨rs1, hi⟩ => ⟨rs1, hi ▸ hd⟩)⟩
  · obtain ⟨c, hc, hrange, hzero⟩ := compareCode_eq_ofInt (s.operandA rs1) (s.operandB rs1 rs2)
    exact ⟨_, _, _, c, s.reads_operandA rs1, s.reads_operandB rs1 rs2, rfl, hc, hrange, hzero⟩
  · have hcount : (popcountCode (s.operandA rs1)).toNat ≤ 256 := by
      rw [toNat_popcountCode]
      exact popcnt_le _
    exact ⟨_, _, s.reads_operandA rs1, rfl, rfl, hcount⟩
  · rw [step_of_pending_reset hp] at h
    cases h
    rfl

/-- Settles O21: FAULT and FCMD are entered together, with the word of the EXEC that faults. -/
theorem fcmdKeepsLastFaultingWord : Obligations.FcmdKeepsLastFaultingWord := by
  refine ⟨fun s t h hne => ?_, fun s t w rest hp h hs hfault => ?_, rfl⟩
  · rcases step_control_cases h with ⟨-, -, hfcmd⟩ | ⟨rest, hp, rfl⟩ | ⟨rest, -, rfl⟩ | ⟨w, rest, hp, hs, hw⟩
    · exact absurd hfcmd hne
    · exact .inr ⟨rest, hp, rfl⟩
    · exact absurd rfl hne
    · rcases performExec_unfaulted_cases hw hs with ⟨hcode, hfcmd, -⟩ | ⟨-, hfcmd, -⟩
      · exact .inl ⟨w, rest, hp, hs, faultCode_ne_zero hcode, hfcmd⟩
      · exact absurd hfcmd hne
  · rcases performExec_unfaulted_cases (performExec_of_step hp h) hs with ⟨-, hfcmd, -⟩ | ⟨h0, -⟩
    · exact hfcmd
    · exact absurd h0 hfault

/-- Settles O22: a command completes within its destinations, or faults and writes FAULT and FCMD alone. -/
theorem commandsWriteOnlyTheirDestinations : Obligations.CommandsWriteOnlyTheirDestinations := by
  refine ⟨fun s t i h => ?_, fun s t w rest hoff h hfault => ?_⟩
  · obtain ⟨hkeep, ⟨hregs, -, hfault, hfcmd, hsres⟩ | ⟨hregs, hsres, -, rd, rd2, rs1, rs2, rfl, -⟩⟩ := exec_cases h
    · refine ⟨hregs, fun hcmp hpopcnt => ?_, fun _ => ⟨hfault, hfcmd⟩, hkeep⟩
      rcases hsres with hsres | ⟨rs1, rs2, rfl, -⟩ | ⟨rs1, rfl, -⟩
      · exact hsres
      · exact absurd rfl hcmp
      · exact absurd rfl hpopcnt
    · exact ⟨hregs.mono (List.nil_subset _), fun _ _ => hsres, fun hop => absurd rfl hop, hkeep⟩
  · rw [step_of_offered_exec hoff] at h
    by_cases hs : s.fault = 0
    · rcases performExec_unfaulted_cases h hs with ⟨-, -, hregs, hsres⟩ | ⟨h0, -⟩
      · exact ⟨hregs, hsres⟩
      · exact absurd h0 hfault
    · rw [performExec_of_faulted (s := s.withPending rest) hs] at h
      cases h
      exact ⟨fun q _ => ⟨rfl, rfl⟩, rfl⟩

/-- Settles O23: both commands show the results of one operation on the same values (`resultsOf`). -/
theorem resultIndependentOfRegisterOverlap : Obligations.ResultIndependentOfRegisterOverlap := by
  intro s t t' i j hop himm hwfi hwfj hwi hwj hvals hs hi hj
  obtain ⟨hfault, hsres, hdests⟩ := exec_shows_resultsOf hs hwfi hwi hi
  obtain ⟨hfault', hsres', hdests'⟩ := exec_shows_resultsOf hs hwfj hwj hj
  rw [hop, himm, hvals] at hfault hsres hdests
  have hsame : t.fault = t'.fault := hfault.trans hfault'.symm
  exact ⟨hsame, hsres.trans hsres'.symm, fun h0 => (hdests h0).trans (hdests' (hsame ▸ h0)).symm⟩

end Sys2Proof.Proofs

/-! PROOFS. The statements about the encoding (30_encoding.md): the opcode map, and the pseudo-instructions. -/

namespace Sys2Proof

/-! ### A row of the opcode map, field by field -/

section

variable {op op' : BitVec 8} {rd rs1 rs2 rd2 rd' rs1' rs2' rd2' : Reg} {imm imm' : BitVec 12}

/-- A packed word determines its six fields (R51). -/
theorem packWord_inj : packWord op rd rs1 rs2 rd2 imm = packWord op' rd' rs1' rs2' rd2' imm' ↔
    op = op' ∧ rd = rd' ∧ rs1 = rs1' ∧ rs2 = rs2' ∧ rd2 = rd2' ∧ imm = imm' := by
  constructor
  · intro h
    exact ⟨by simpa using congrArg opField h, by simpa using congrArg rdField h, by simpa using congrArg rs1Field h,
      by simpa using congrArg rs2Field h, by simpa using congrArg rd2Field h, by simpa using congrArg immField h⟩
  · rintro ⟨rfl, rfl, rfl, rfl, rfl, rfl⟩
    rfl

end

/-- The mask of a whole register field selects it all, so that the masked field is zero exactly when the field is. -/
@[simp] theorem regOfBits_and_seven {r : Reg} : regOfBits (bitsOfReg r &&& bitsOfReg 7) = 0 ↔ r = 0 := by
  revert r
  decide

@[simp] theorem regOfBits_and_zero {r : Reg} : regOfBits (bitsOfReg r &&& bitsOfReg 0) = 0 := by
  revert r
  decide

@[simp] theorem op_and_mask {op : BitVec 8} : op &&& 0xFF#8 = op := BitVec.and_allOnes

@[simp] theorem imm_and_mask {imm : BitVec 12} : imm &&& 0xFFF#12 = imm := BitVec.and_allOnes

@[simp] theorem opField_encode (i : Instr) : opField (encode i) = i.opcode := by
  cases i <;> exact opField_packWord ..

theorem opcode_of_decode {w : Word} {i : Instr} (h : decode w = .ok i) : i.opcode = opField w := by
  rw [← opField_encode, encode_of_decode h]

/-! ### Which words of a format decode (R52) -/

theorem exists_ite_ok_iff {ε α : Type} {c : Prop} [Decidable c] {a : α} {e : ε} :
    (∃ i, (if c then Except.ok a else Except.error e) = Except.ok i) ↔ c := by
  split <;> simp [*]

section

variable {w : Word}

theorem exists_decodeR3_iff {mk : Reg → Reg → Reg → Instr} :
    (∃ i, decodeR3 mk w = .ok i) ↔ rd2Field w = 0 ∧ immField w = 0 :=
  exists_ite_ok_iff

theorem exists_decodeRI_iff {mk : Reg → Reg → BitVec 12 → Instr} :
    (∃ i, decodeRI mk w = .ok i) ↔ rs2Field w = 0 ∧ rd2Field w = 0 :=
  exists_ite_ok_iff

theorem exists_decodeR4_iff : (∃ i, decodeR4 w = .ok i) ↔ immField w = 0 ∧ rdField w ≠ rd2Field w := by
  unfold decodeR4
  split_ifs <;> simp_all

theorem exists_decodeR2_iff : (∃ i, decodeR2 w = .ok i) ↔ rs2Field w = 0 ∧ rd2Field w = 0 ∧ immField w = 0 :=
  exists_ite_ok_iff

theorem exists_decodeS2_iff : (∃ i, decodeS2 w = .ok i) ↔ rdField w = 0 ∧ rd2Field w = 0 ∧ immField w = 0 :=
  exists_ite_ok_iff

theorem exists_decodeS1_iff :
    (∃ i, decodeS1 w = .ok i) ↔ rdField w = 0 ∧ rs2Field w = 0 ∧ rd2Field w = 0 ∧ immField w = 0 :=
  exists_ite_ok_iff

end

/-! ### The rows of the opcode map (R54) -/

/-- What R54 says of one row (opcode, match, mask). -/
def RowDecides (row : BitVec 8 × Word × Word) : Prop :=
  ∀ w : Word, (∃ i, decode w = .ok i ∧ i.opcode = row.1) ↔
    (w &&& row.2.2 = row.2.1 ∧ (row.1 = 0x04 → rdField w ≠ rd2Field w))

/-- The fields a mask selects are zero in `w`. -/
def MaskedFieldsZero (mrd mrs2 mrd2 : Reg) (mimm : BitVec 12) (w : Word) : Prop :=
  regOfBits (bitsOfReg (rdField w) &&& bitsOfReg mrd) = 0 ∧ regOfBits (bitsOfReg (rs2Field w) &&& bitsOfReg mrs2) = 0 ∧
    regOfBits (bitsOfReg (rd2Field w) &&& bitsOfReg mrd2) = 0 ∧ immField w &&& mimm = 0

/-- A word matches a row under its mask exactly when it has the row's opcode and zero in every masked field. -/
theorem and_mask_eq_match_iff {op : BitVec 8} {mrd mrs2 mrd2 : Reg} {mimm : BitVec 12} {w : Word} :
    w &&& packWord 0xFF mrd 0 mrs2 mrd2 mimm = packWord op 0 0 0 0 0 ↔
      opField w = op ∧ MaskedFieldsZero mrd mrs2 mrd2 mimm w := by
  conv_lhs => rw [← packWord_fields w, packWord_and, packWord_inj]
  simp [MaskedFieldsZero]

section

variable {op : BitVec 8}

/-- A row decides its command when the format of its opcode accepts exactly the words with zero in the masked fields
and, for DIVMOD, two destinations. -/
theorem rowDecides_of_format {mrd mrs2 mrd2 : Reg} {mimm : BitVec 12} {format : Word → Except Reject Instr}
    (hdecode : ∀ w, opField w = op → decode w = format w)
    (hformat : ∀ w, (∃ i, format w = .ok i) ↔
      MaskedFieldsZero mrd mrs2 mrd2 mimm w ∧ (op = 0x04 → rdField w ≠ rd2Field w)) :
    RowDecides (op, packWord op 0 0 0 0 0, packWord 0xFF mrd 0 mrs2 mrd2 mimm) := by
  intro w
  rw [and_mask_eq_match_iff, and_assoc, ← hformat]
  constructor
  · rintro ⟨i, hi, hop⟩
    have hw : opField w = op := (opcode_of_decode hi).symm.trans hop
    exact ⟨hw, i, hdecode w hw ▸ hi⟩
  · rintro ⟨hw, i, hi⟩
    have hd : decode w = .ok i := (hdecode w hw).trans hi
    exact ⟨i, hd, (opcode_of_decode hd).trans hw⟩

theorem rowDecides_R3 (mk : Reg → Reg → Reg → Instr) (hop : op ≠ 0x04)
    (hdecode : ∀ w, opField w = op → decode w = decodeR3 mk w) :
    RowDecides (op, packWord op 0 0 0 0 0, packWord 0xFF 0 0 0 7 0xFFF) :=
  rowDecides_of_format hdecode fun w => by
    rw [and_iff_left fun h => absurd h hop]
    simp [exists_decodeR3_iff, MaskedFieldsZero]

theorem rowDecides_RI (mk : Reg → Reg → BitVec 12 → Instr) (hop : op ≠ 0x04)
    (hdecode : ∀ w, opField w = op → decode w = decodeRI mk w) :
    RowDecides (op, packWord op 0 0 0 0 0, packWord 0xFF 0 0 7 7 0) :=
  rowDecides_of_format hdecode fun w => by
    rw [and_iff_left fun h => absurd h hop]
    simp [exists_decodeRI_iff, MaskedFieldsZero]

end

theorem rowDecides_R4 (hdecode : ∀ w, opField w = 0x04 → decode w = decodeR4 w) :
    RowDecides (0x04, packWord 0x04 0 0 0 0 0, packWord 0xFF 0 0 0 0 0xFFF) :=
  rowDecides_of_format hdecode fun w => by
    simp [exists_decodeR4_iff, MaskedFieldsZero]

theorem rowDecides_R2 (hdecode : ∀ w, opField w = 0x0D → decode w = decodeR2 w) :
    RowDecides (0x0D, packWord 0x0D 0 0 0 0 0, packWord 0xFF 0 0 7 7 0xFFF) :=
  rowDecides_of_format hdecode fun w => by
    simp [exists_decodeR2_iff, MaskedFieldsZero]

theorem rowDecides_S2 (hdecode : ∀ w, opField w = 0x0E → decode w = decodeS2 w) :
    RowDecides (0x0E, packWord 0x0E 0 0 0 0 0, packWord 0xFF 7 0 0 7 0xFFF) :=
  rowDecides_of_format hdecode fun w => by
    simp [exists_decodeS2_iff, MaskedFieldsZero]

theorem rowDecides_S1 (hdecode : ∀ w, opField w = 0x0F → decode w = decodeS1 w) :
    RowDecides (0x0F, packWord 0x0F 0 0 0 0 0, packWord 0xFF 7 0 7 7 0xFFF) :=
  rowDecides_of_format hdecode fun w => by
    simp [exists_decodeS1_iff, MaskedFieldsZero]

theorem rowDecides_of_mem_opcodeMap : ∀ row ∈ opcodeMap, RowDecides row := by
  simp only [opcodeMap, List.forall_mem_cons]
  refine ⟨rowDecides_R3 .add (by decide) ?_, rowDecides_R3 .sub (by decide) ?_, rowDecides_R3 .mul (by decide) ?_,
    rowDecides_R4 ?_, rowDecides_R3 .shl (by decide) ?_, rowDecides_R3 .shr (by decide) ?_,
    rowDecides_RI .shli (by decide) ?_, rowDecides_RI .shri (by decide) ?_, rowDecides_R3 .and (by decide) ?_,
    rowDecides_R3 .or (by decide) ?_, rowDecides_R3 .xor (by decide) ?_, rowDecides_R3 .andn (by decide) ?_,
    rowDecides_R2 ?_, rowDecides_S2 ?_, rowDecides_S1 ?_, List.forall_mem_nil _⟩
  all_goals
    intro w hop
    rw [decode, hop]
    rfl

/-! ### Rows and opcodes -/

/-- Every mask covers the whole opcode, so that a word that matches a row has the row's opcode. -/
theorem opField_of_match {row : BitVec 8 × Word × Word} (hrow : row ∈ opcodeMap) {w : Word}
    (h : w &&& row.2.2 = row.2.1) : opField w = row.1 := by
  have hfields : ∀ row ∈ opcodeMap, opField row.2.2 = 0xFF#8 ∧ opField row.2.1 = row.1 := by
    simp [opcodeMap, opField]
  obtain ⟨hmask, hmatch⟩ := hfields row hrow
  calc opField w = opField w &&& opField row.2.2 := by rw [hmask, op_and_mask]
    _ = opField (w &&& row.2.2) := BitVec.extractLsb'_and.symm
    _ = row.1 := by rw [h, hmatch]

theorem opcodeMap_opcodes_nodup : (opcodeMap.map Prod.fst).Nodup := by decide

/-- The word of every command matches the row of its opcode. -/
theorem encode_matches_row (i : Instr) : Laws.TableRow.Statement i := by
  cases i with
  | add => exact Laws.TableRow.add ..
  | sub => exact Laws.TableRow.sub ..
  | mul => exact Laws.TableRow.mul ..
  | divmod => exact Laws.TableRow.divmod ..
  | shl => exact Laws.TableRow.shl ..
  | shr => exact Laws.TableRow.shr ..
  | shli => exact Laws.TableRow.shli ..
  | shri => exact Laws.TableRow.shri ..
  | and => exact Laws.TableRow.and ..
  | or => exact Laws.TableRow.or ..
  | xor => exact Laws.TableRow.xor ..
  | andn => exact Laws.TableRow.andn ..
  | not => exact Laws.TableRow.not ..
  | cmp => exact Laws.TableRow.cmp ..
  | popcnt => exact Laws.TableRow.popcnt ..

end Sys2Proof

namespace Sys2Proof.Machine

/-! ### A command whose sources have specified values -/

section

variable {s : State} {rd rs1 rs2 : Reg}

theorem runR3_of_written {f : U256 → U256 → U256} (h1 : s.isWritten rs1 = true) (h2 : s.isWritten rs2 = true) :
    runR3 f rd rs1 rs2 s = .next (s.writeU rd (f (s.getU rs1) (s.getU rs2))) := by
  rw [runR3, State.operandA_of_written h1, State.operandB_of_written h2, State.afterReads_of_written h1 h2]

theorem runR2_of_written {f : U256 → U256} (h1 : s.isWritten rs1 = true) :
    runR2 f rd rs1 s = .next (s.writeU rd (f (s.getU rs1))) := by
  rw [runR2, State.operandA_of_written h1, State.afterRead_of_written h1]

theorem State.getU_writeU_self (v : U256) : (s.writeU rd v).getU rd = v := by simp

theorem State.onlyWrites_writeU (v : U256) : State.OnlyWrites [rd] s (s.writeU rd v) :=
  ⟨fun q hq => by simp_all, rfl, rfl, rfl, rfl, rfl, rfl⟩

end

end Sys2Proof.Machine

namespace Sys2Proof.Proofs

open Sys2Proof.Machine

/-- Settles O4: a row's mask covers the opcode and exactly the fields that the row's format wants zero. -/
theorem decodeFollowsOpcodeMap : Obligations.DecodeFollowsOpcodeMap := by
  refine ⟨rowDecides_of_mem_opcodeMap, fun row hrow row' hrow' w h h' => ?_, fun w hnone => ?_⟩
  · have hop : row.1 = row'.1 := (opField_of_match hrow h).symm.trans (opField_of_match hrow' h')
    exact List.inj_on_of_nodup_map opcodeMap_opcodes_nodup hrow hrow' hop
  · cases hd : decode w with
    | error e => exact ⟨e, rfl⟩
    | ok i =>
      obtain ⟨row, hrow, -, hmatch⟩ := encode_matches_row i
      rw [encode_of_decode hd] at hmatch
      exact absurd hmatch (hnone row hrow)

/-- Settles O47: each pseudo-instruction is its expansion, which reads registers that have values. -/
theorem pseudoInstructionsAreAliases : Obligations.PseudoInstructionsAreAliases := by
  refine ⟨fun d a => ⟨rfl, rfl, rfl⟩, fun s d a ha => ?_, fun s d hd => ?_, fun s d a ha => ?_⟩
  · exact ⟨_, runR3_of_written ha ha, (State.getU_writeU_self _).trans BitVec.or_self, State.onlyWrites_writeU _⟩
  · exact ⟨_, runR3_of_written hd hd, (State.getU_writeU_self _).trans BitVec.xor_self, State.onlyWrites_writeU _⟩
  · exact ⟨_, runR2_of_written ha, by rw [State.getU_writeU_self, BitVec.toNat_not], State.onlyWrites_writeU _⟩

end Sys2Proof.Proofs

/-! PROOFS. The statements about ADD and SUB (40_add_sub.md), and what they need about format R3: its word, and what a
command of it reads, writes and leaves. -/

namespace Sys2Proof

/-! ### A word as the OR of its fields, each shifted to its place -/

section

variable (op : BitVec 8) (rd rs1 rs2 rd2 : Reg) (imm : BitVec 12)

/-- An index as the statements write it is its 3-bit field, widened to a word. -/
theorem ofNat_reg (r : Reg) : BitVec.ofNat 32 r.val = (bitsOfReg r).zeroExtend 32 := by
  revert r
  decide

/-- A register index shifted to its field shows the bits of the field's value there (R51). -/
theorem getLsbD_reg_shiftLeft (r : Reg) {lo k : Nat} (hk : k < 32) :
    (BitVec.ofNat 32 r.val <<< lo).getLsbD k = (decide (lo ≤ k) && (bitsOfReg r).getLsbD (k - lo)) := by
  rw [ofNat_reg, BitVec.getLsbD_shiftLeft, BitVec.zeroExtend, BitVec.getLsbD_setWidth]
  simp only [hk, show k - lo < 32 by omega, decide_true, Bool.true_and, ← decide_not, Nat.not_lt]

/-- A packed word is its opcode's word with every operand shifted to its field (R51): at each bit, the operands of
all other fields are zero. -/
theorem packWord_eq_or : packWord op rd rs1 rs2 rd2 imm = packWord op 0 0 0 0 0 |||
    BitVec.ofNat 32 rd.val <<< 21 ||| BitVec.ofNat 32 rs1.val <<< 18 ||| BitVec.ofNat 32 rs2.val <<< 15 |||
      BitVec.ofNat 32 rd2.val <<< 12 ||| imm.zeroExtend 32 := by
  apply BitVec.eq_of_getLsbD_eq
  intro k hk
  have hzero (j : Nat) : (bitsOfReg 0).getLsbD j = false := BitVec.getLsbD_zero
  simp only [BitVec.getLsbD_or, getLsbD_packWord, getLsbD_reg_shiftLeft _ hk, hzero, BitVec.zeroExtend,
    BitVec.getLsbD_setWidth, BitVec.ofNat_eq_ofNat, BitVec.getLsbD_zero, hk, decide_true, Bool.true_and]
  split_ifs <;>
    simp (disch := omega) only [decide_eq_true, decide_eq_false, BitVec.getLsbD_of_ge, Bool.true_and, Bool.false_and,
      Bool.and_false, Bool.false_or, Bool.or_false]

/-- The word of a command of format R3, whose `rd2` and `imm` are zero (R52). -/
theorem packWord_R3_eq_or : packWord op rd rs1 rs2 0 0 = packWord op 0 0 0 0 0 |||
    BitVec.ofNat 32 rd.val <<< 21 ||| BitVec.ofNat 32 rs1.val <<< 18 ||| BitVec.ofNat 32 rs2.val <<< 15 := by
  rw [packWord_eq_or]
  simp

end

end Sys2Proof

namespace Sys2Proof.Machine

/-! ### A command of format R3, run from any state -/

section

variable (s : State) (rd rs1 rs2 : Reg)

/-- Reading two sources, free values included, and writing `U[rd]` writes nothing else (R14). -/
theorem State.onlyWrites_afterReads_writeU (v : U256) :
    State.OnlyWrites [rd] s ((s.afterReads rs1 rs2).writeU rd v) := by
  refine ⟨fun q hq => ?_, by simp, by simp, by simp, by simp, by simp, by simp⟩
  have hne : q ≠ rd := by simpa using hq
  simp [hne]

/-- Format R3 reads its two sources, writes the result to `U[rd]` and nothing else, whatever the registers. -/
theorem runR3_writes (f : U256 → U256 → U256) :
    ∃ a b t, s.Reads rs1 a ∧ s.Reads rs2 b ∧ runR3 f rd rs1 rs2 s = .next t ∧ t.getU rd = f a b ∧
      t.isWritten rd = true ∧ State.OnlyWrites [rd] s t :=
  ⟨_, _, _, s.reads_operandA rs1, s.reads_operandB rs1 rs2, rfl, State.getU_writeU_self _, by simp,
    s.onlyWrites_afterReads_writeU rd rs1 rs2 _⟩

end

/-- A command of format R3 whose function on registers is `g` on numbers. -/
theorem r3Completes_of_runR3 {mk : Reg → Reg → Reg → Instr} {op : BitVec 8} {f : U256 → U256 → U256}
    {g : Nat → Nat → Nat} (hword : ∀ rd rs1 rs2, encode (mk rd rs1 rs2) = packWord op rd rs1 rs2 0 0)
    (hexec : ∀ rd rs1 rs2 s, exec (mk rd rs1 rs2) s = runR3 f rd rs1 rs2 s)
    (hvalue : ∀ a b, (f a b).toNat = g a.toNat b.toNat) :
    Claims.R3Completes mk (packWord op 0 0 0 0 0) g := by
  intro s rd rs1 rs2
  obtain ⟨a, b, t, ha, hb, hrun, hval, hwritten, hframe⟩ := runR3_writes s rd rs1 rs2 f
  refine ⟨by rw [hword, packWord_R3_eq_or], a, b, t, ha, hb, by rw [hexec, hrun], ?_, hwritten, hframe⟩
  rw [hval, hvalue]

/-! ### The two results as numbers -/

theorem toNat_addWrap (a b : U256) : (addWrap a b).toNat = (a.toNat + b.toNat) % 2 ^ 256 := BitVec.toNat_ofNat ..

theorem toNat_subWrap (a b : U256) : (subWrap a b).toNat = (((a.toNat : Int) - (b.toNat : Int)) % 2 ^ 256).toNat :=
  BitVec.toNat_ofInt ..

end Sys2Proof.Machine

namespace Sys2Proof.Proofs

open Sys2Proof.Machine

/-- Settles O24: ADD is format R3 with the exact sum, narrowed to 256 bits (R70). -/
theorem addWritesSumModulo : Obligations.AddWritesSumModulo :=
  r3Completes_of_runR3 (op := 0x01) (fun _ _ _ => rfl) (fun _ _ _ _ => rfl) toNat_addWrap

/-- Settles O25: SUB is format R3 with the difference of integers, first operand minus second, narrowed (R73). -/
theorem subWritesDifferenceModulo : Obligations.SubWritesDifferenceModulo :=
  r3Completes_of_runR3 (op := 0x02) (fun _ _ _ => rfl) (fun _ _ _ _ => rfl) toNat_subWrap

end Sys2Proof.Proofs

/-! PROOFS. The statement about MUL (41_mul.md): format R3, with the low half of the exact product. -/

namespace Sys2Proof.Machine

theorem toNat_mulWrap (a b : U256) : (mulWrap a b).toNat = (a.toNat * b.toNat) % 2 ^ 256 := BitVec.toNat_ofNat ..

end Sys2Proof.Machine

namespace Sys2Proof.Proofs

open Sys2Proof.Machine

/-- Settles O26: MUL is format R3 with the exact product, narrowed to its low 256 bits (R80). -/
theorem mulWritesLowHalfOfProduct : Obligations.MulWritesLowHalfOfProduct :=
  r3Completes_of_runR3 (op := 0x03) (fun _ _ _ => rfl) (fun _ _ _ _ => rfl) toNat_mulWrap

end Sys2Proof.Proofs

/-! PROOFS. The statements about DIVMOD (42_divmod.md): its word, its two results as numbers, and what it writes, by
whether the divisor it reads is 0. -/

namespace Sys2Proof

section

variable (rd rd2 rs1 rs2 : Reg)

/-- The word of a command of format R4, whose `imm` is zero (R52). -/
theorem encode_divmod_eq_or : encode (.divmod rd rd2 rs1 rs2) = 0x04000000#32 ||| BitVec.ofNat 32 rd.val <<< 21 |||
    BitVec.ofNat 32 rs1.val <<< 18 ||| BitVec.ofNat 32 rs2.val <<< 15 ||| BitVec.ofNat 32 rd2.val <<< 12 :=
  (packWord_eq_or 0x04 rd rs1 rs2 rd2 0).trans BitVec.or_zero

/-- The word of a DIVMOD with one destination is format R4's, which wants two (R56). -/
theorem decode_encode_divmod_same : decode (encode (.divmod rd rd rs1 rs2)) = .error .sameDestinations := by
  simp [decode, decodeR4, encode]

end

end Sys2Proof

namespace Sys2Proof.Machine

/-! ### The quotient and the remainder as numbers -/

section

variable (a b : U256)

theorem toNat_quotient : (quotient a b).toNat = a.toNat / b.toNat := by
  rw [quotient, BitVec.toNat_ofNat, Nat.mod_eq_of_lt ((Nat.div_le_self _ _).trans_lt a.isLt)]

theorem toNat_remainder : (remainder a b).toNat = a.toNat - a.toNat / b.toNat * b.toNat := by
  rw [remainder, BitVec.toNat_ofNat, Nat.mod_eq_of_lt ((Nat.sub_le _ _).trans_lt a.isLt)]

end

/-! ### DIVMOD with two destinations, run from any state -/

section

variable {s : State} {rd rd2 rs1 rs2 : Reg}

/-- Reading two sources, free values included, and writing two destinations writes nothing else (R14). -/
theorem State.onlyWrites_afterReads_writeU_writeU (q r : U256) :
    State.OnlyWrites [rd, rd2] s (((s.afterReads rs1 rs2).writeU rd q).writeU rd2 r) := by
  refine ⟨fun x hx => ?_, by simp, by simp, by simp, by simp, by simp, by simp⟩
  obtain ⟨hrd, hrd2⟩ : x ≠ rd ∧ x ≠ rd2 := by simpa using hx
  simp [hrd, hrd2]

variable (hr : rd ≠ rd2)
include hr

theorem exec_divmod_of_ne : exec (.divmod rd rd2 rs1 rs2) s =
    .next ((s.afterReads rs1 rs2).divide (encode (.divmod rd rd2 rs1 rs2)) rd rd2 (s.operandA rs1)
      (s.operandB rs1 rs2)) := by
  rw [exec, execDivmod, if_neg hr]

theorem exec_divmod_of_operandB_eq_zero (hb : s.operandB rs1 rs2 = 0) : exec (.divmod rd rd2 rs1 rs2) s =
    .next ((s.afterReads rs1 rs2).raise divideByZero (encode (.divmod rd rd2 rs1 rs2))) := by
  rw [exec_divmod_of_ne hr, State.divide, if_pos hb]

theorem exec_divmod_of_operandB_ne_zero (hb : s.operandB rs1 rs2 ≠ 0) : exec (.divmod rd rd2 rs1 rs2) s =
    .next (((s.afterReads rs1 rs2).writeU rd (quotient (s.operandA rs1) (s.operandB rs1 rs2))).writeU rd2
      (remainder (s.operandA rs1) (s.operandB rs1 rs2))) := by
  rw [exec_divmod_of_ne hr, State.divide, if_neg hb]

/-- A divisor that is not 0 as read gives both results and nothing else (R85). -/
theorem exec_divmod_writes (hb : s.operandB rs1 rs2 ≠ 0) :
    ∃ a b t, s.Reads rs1 a ∧ s.Reads rs2 b ∧ b = s.operandB rs1 rs2 ∧
      exec (.divmod rd rd2 rs1 rs2) s = .next t ∧ (t.getU rd).toNat = a.toNat / b.toNat ∧
      (t.getU rd2).toNat = a.toNat - a.toNat / b.toNat * b.toNat ∧
      t.isWritten rd = true ∧ t.isWritten rd2 = true ∧ State.OnlyWrites [rd, rd2] s t :=
  ⟨_, _, _, s.reads_operandA rs1, s.reads_operandB rs1 rs2, rfl, exec_divmod_of_operandB_ne_zero hr hb,
    by simp [hr, toNat_quotient], by simp [toNat_remainder], by simp, by simp,
    State.onlyWrites_afterReads_writeU_writeU _ _⟩

/-- A divisor that is 0 as read raises DivideByZero with the command's own word and changes nothing else (R86, R146). -/
theorem exec_divmod_raises (hb : s.operandB rs1 rs2 = 0) :
    ∃ t, exec (.divmod rd rd2 rs1 rs2) s = .next t ∧ t.fault = 2 ∧ t.fcmd = encode (.divmod rd rd2 rs1 rs2) ∧
      State.KeepsRegistersBut [] s t ∧ t.sres = s.sres ∧ t.resetDone = s.resetDone ∧ t.pending = s.pending ∧
      t.replies = s.replies :=
  ⟨_, exec_divmod_of_operandB_eq_zero hr hb, rfl, rfl, fun _ _ => by simp, by simp, by simp, by simp, by simp⟩

end

end Sys2Proof.Machine

namespace Sys2Proof.Proofs

open Sys2Proof.Machine

/-- Settles O41: the results are the quotient and the remainder of the division of naturals, and that division has
one quotient and remainder (R89). -/
theorem divisionLawHolds : Obligations.DivisionLawHolds := by
  intro s rd rd2 rs1 rs2 hr h1 h2 hb
  have hdivisor : s.operandB rs1 rs2 = s.getU rs2 := State.operandB_of_written h2
  obtain ⟨a, b, t, ha, hb', -, hexec, hq, hrem, -⟩ := exec_divmod_writes hr (hdivisor ▸ hb)
  obtain rfl := ha h1
  obtain rfl := hb' h2
  rw [← Nat.mod_eq_sub_div_mul] at hrem
  have hpos : 0 < (s.getU rs2).toNat := Nat.pos_of_ne_zero fun h0 => hb (BitVec.eq_of_toNat_eq h0)
  refine ⟨t, hexec, ?_, ?_, fun q r hsum hlt => ?_⟩
  · rw [hq, hrem, Nat.div_add_mod]
  · rw [hrem]
    exact Nat.mod_lt _ hpos
  · obtain ⟨hdiv, hmod⟩ := (Nat.div_mod_unique hpos).mpr ⟨(Nat.add_comm _ _).trans hsum.symm, hlt⟩
    exact ⟨by rw [hq, hdiv], by rw [hrem, hmod]⟩

/-- Settles O27: the word is format R4's, and the divisor as read decides between both results and DivideByZero
(R85). -/
theorem divmodWritesQuotientAndRemainder : Obligations.DivmodWritesQuotientAndRemainder := by
  refine ⟨encode_divmod_eq_or, fun s rd rd2 rs1 rs2 hr hb => exec_divmod_writes hr hb,
    fun s rd rd2 rs1 rs2 hr hb => ?_, fun rd rs1 rs2 => ⟨_, decode_encode_divmod_same rd rs1 rs2⟩⟩
  obtain ⟨t, hexec, hfault, -, hregs, hsres, -⟩ := exec_divmod_raises hr hb
  exact ⟨t, hexec, hfault, hregs, hsres⟩

/-- Settles O28: a divisor that is 0 as read changes FAULT and FCMD alone (R86). -/
theorem divmodByZeroWritesNothing : Obligations.DivmodByZeroWritesNothing :=
  ⟨fun _ _ _ h2 hb => (State.operandB_of_written h2).trans hb, fun _ _ _ _ _ hr hb => exec_divmod_raises hr hb⟩

end Sys2Proof.Proofs

/-! PROOFS. The statements about SHL, SHR, SHLI and SHRI (43_shift.md): the two shifts as numbers, and what they need
about format RI: its word, and what a command of it reads, writes and leaves. -/

namespace Sys2Proof

/-- The word of a command of format RI, whose `rs2` and `rd2` are zero (R52). -/
theorem packWord_RI_eq_or (op : BitVec 8) (rd rs1 : Reg) (imm : BitVec 12) :
    packWord op rd rs1 0 0 imm = packWord op 0 0 0 0 0 ||| BitVec.ofNat 32 rd.val <<< 21 |||
      BitVec.ofNat 32 rs1.val <<< 18 ||| imm.zeroExtend 32 := by
  rw [packWord_eq_or]
  simp

end Sys2Proof

namespace Sys2Proof.Machine

/-! ### The two shifts (R95, R98, R100) -/

section

variable (a : U256) {n : Nat}

theorem shiftLeft_of_ge (hn : n ≥ 256) : shiftLeft a n = 0 := if_pos hn

theorem shiftRight_of_ge (hn : n ≥ 256) : shiftRight a n = 0 := if_pos hn

variable (n)

theorem toNat_shiftLeft : (shiftLeft a n).toNat = if n ≥ 256 then 0 else a.toNat * 2 ^ n % 2 ^ 256 := by
  split_ifs with hn
  · simp [shiftLeft_of_ge a hn]
  · rw [shiftLeft, if_neg hn, BitVec.toNat_ofNat]

theorem toNat_shiftRight : (shiftRight a n).toNat = if n ≥ 256 then 0 else a.toNat / 2 ^ n := by
  split_ifs with hn
  · simp [shiftRight_of_ge a hn]
  · rw [shiftRight, if_neg hn, BitVec.toNat_ofNat, Nat.mod_eq_of_lt ((Nat.div_le_self _ _).trans_lt a.isLt)]

end

/-! ### A command of format RI, run from any state -/

section

variable (s : State) (rd rs1 : Reg)

/-- Reading one source, a free value included, and writing `U[rd]` writes nothing else (R14). -/
theorem State.onlyWrites_afterRead_writeU (v : U256) : State.OnlyWrites [rd] s ((s.afterRead rs1).writeU rd v) := by
  refine ⟨fun q hq => ?_, by simp, by simp, by simp, by simp, by simp, by simp⟩
  have hne : q ≠ rd := by simpa using hq
  simp [hne]

/-- Format RI reads its source, writes the result to `U[rd]` and nothing else, whatever the registers. -/
theorem runRI_writes (f : U256 → Nat → U256) (imm : BitVec 12) :
    ∃ a t, s.Reads rs1 a ∧ runRI f rd rs1 imm s = .next t ∧ t.getU rd = f a imm.toNat ∧
      t.isWritten rd = true ∧ State.OnlyWrites [rd] s t :=
  ⟨_, _, s.reads_operandA rs1, rfl, State.getU_writeU_self _, by simp, s.onlyWrites_afterRead_writeU rd rs1 _⟩

end

/-- A command of format RI whose function on a register and the immediate is `g` on numbers. -/
theorem riCompletes_of_runRI {mk : Reg → Reg → BitVec 12 → Instr} {op : BitVec 8} {f : U256 → Nat → U256}
    {g : Nat → Nat → Nat} (hword : ∀ rd rs1 imm, encode (mk rd rs1 imm) = packWord op rd rs1 0 0 imm)
    (hexec : ∀ rd rs1 imm s, exec (mk rd rs1 imm) s = runRI f rd rs1 imm s)
    (hvalue : ∀ a n, (f a n).toNat = g a.toNat n) :
    Claims.RICompletes mk (packWord op 0 0 0 0 0) g := by
  intro s rd rs1 imm
  obtain ⟨a, t, ha, hrun, hval, hwritten, hframe⟩ := runRI_writes s rd rs1 f imm
  refine ⟨by rw [hword, packWord_RI_eq_or], a, t, ha, by rw [hexec, hrun], ?_, hwritten, hframe⟩
  rw [hval, hvalue]

/-! ### The result of a run of format R3 or RI -/

section

variable {s t : State} {rd rs1 rs2 : Reg}

theorem getU_of_runR3 {f : U256 → U256 → U256} (h : runR3 f rd rs1 rs2 s = .next t) :
    t.getU rd = f (s.operandA rs1) (s.operandB rs1 rs2) := by
  cases h
  exact State.getU_writeU_self _

theorem getU_of_runRI {f : U256 → Nat → U256} {imm : BitVec 12} (h : runRI f rd rs1 imm s = .next t) :
    t.getU rd = f (s.operandA rs1) imm.toNat := by
  cases h
  exact State.getU_writeU_self _

end

end Sys2Proof.Machine

namespace Sys2Proof.Proofs

open Sys2Proof.Machine

/-- Settles O42: the amount as read is 256 or more, and both shifts give 0 for it (R100). -/
theorem amountsOf256AndMoreGiveZero : Obligations.AmountsOf256AndMoreGiveZero := by
  refine ⟨fun s t rd rs1 rs2 h2 hn h => ?_, fun s t rd rs1 imm hn h => ?_⟩
  · have hamount : (s.operandB rs1 rs2).toNat ≥ 256 := by rwa [State.operandB_of_written h2]
    rcases h with hshl | hshr
    · exact (getU_of_runR3 (f := fun a n => shiftLeft a n.toNat) hshl).trans (shiftLeft_of_ge _ hamount)
    · exact (getU_of_runR3 (f := fun a n => shiftRight a n.toNat) hshr).trans (shiftRight_of_ge _ hamount)
  · rcases h with hshli | hshri
    · exact (getU_of_runRI hshli).trans (shiftLeft_of_ge _ hn)
    · exact (getU_of_runRI hshri).trans (shiftRight_of_ge _ hn)

/-- Settles O30: SHL is format R3 with the left shift by the second source's whole value (R95). -/
theorem shlShiftsLeftByRegister : Obligations.ShlShiftsLeftByRegister :=
  r3Completes_of_runR3 (op := 0x05) (fun _ _ _ => rfl) (fun _ _ _ _ => rfl) fun a b => toNat_shiftLeft a b.toNat

/-- Settles O31: SHR is format R3 with the right shift by the second source's whole value (R98). -/
theorem shrShiftsRightByRegister : Obligations.ShrShiftsRightByRegister :=
  r3Completes_of_runR3 (op := 0x06) (fun _ _ _ => rfl) (fun _ _ _ _ => rfl) fun a b => toNat_shiftRight a b.toNat

/-- Settles O32: SHLI is format RI with the left shift (R96). -/
theorem shliShiftsLeftByImmediate : Obligations.ShliShiftsLeftByImmediate :=
  riCompletes_of_runRI (op := 0x07) (fun _ _ _ => rfl) (fun _ _ _ _ => rfl) toNat_shiftLeft

/-- Settles O33: SHRI is format RI with the right shift (R101). -/
theorem shriShiftsRightByImmediate : Obligations.ShriShiftsRightByImmediate :=
  riCompletes_of_runRI (op := 0x08) (fun _ _ _ => rfl) (fun _ _ _ _ => rfl) toNat_shiftRight

end Sys2Proof.Proofs

/-! PROOFS. The statements about AND, OR, XOR and NOT (44_logic.md): format R3 for a function that works bit by bit,
and format R2: its word, and what a command of it reads, writes and leaves. -/

namespace Sys2Proof

/-- The word of a command of format R2, whose `rs2`, `rd2` and `imm` are zero (R52). -/
theorem packWord_R2_eq_or (op : BitVec 8) (rd rs1 : Reg) : packWord op rd rs1 0 0 0 =
    packWord op 0 0 0 0 0 ||| BitVec.ofNat 32 rd.val <<< 21 ||| BitVec.ofNat 32 rs1.val <<< 18 := by
  rw [packWord_eq_or]
  simp

end Sys2Proof

namespace Sys2Proof.Machine

/-- A command of format R3 whose function on registers is `g` on each of their 256 bits. -/
theorem r3Bitwise_of_runR3 {mk : Reg → Reg → Reg → Instr} {op : BitVec 8} {f : U256 → U256 → U256}
    {g : Bool → Bool → Bool} (hword : ∀ rd rs1 rs2, encode (mk rd rs1 rs2) = packWord op rd rs1 rs2 0 0)
    (hexec : ∀ rd rs1 rs2 s, exec (mk rd rs1 rs2) s = runR3 f rd rs1 rs2 s)
    (hbit : ∀ a b k, k < 256 → (f a b).getLsbD k = g (a.getLsbD k) (b.getLsbD k)) :
    Claims.R3Bitwise mk (packWord op 0 0 0 0 0) g := by
  intro s rd rs1 rs2
  obtain ⟨a, b, t, ha, hb, hrun, hval, hwritten, hframe⟩ := runR3_writes s rd rs1 rs2 f
  refine ⟨by rw [hword, packWord_R3_eq_or], a, b, t, ha, hb, by rw [hexec, hrun], fun k hk => ?_, hwritten, hframe⟩
  rw [hval, hbit a b k hk]

/-- Format R2 reads its source, writes the result to `U[rd]` and nothing else, whatever the registers. -/
theorem runR2_writes (s : State) (rd rs1 : Reg) (f : U256 → U256) :
    ∃ a t, s.Reads rs1 a ∧ runR2 f rd rs1 s = .next t ∧ t.getU rd = f a ∧ t.isWritten rd = true ∧
      State.OnlyWrites [rd] s t :=
  ⟨_, _, s.reads_operandA rs1, rfl, State.getU_writeU_self _, by simp, s.onlyWrites_afterRead_writeU rd rs1 _⟩

end Sys2Proof.Machine

namespace Sys2Proof.Proofs

open Sys2Proof.Machine

/-- Settles O34: AND is format R3 with the conjunction of each pair of bits (R105). -/
theorem andIsBitwise : Obligations.AndIsBitwise :=
  r3Bitwise_of_runR3 (op := 0x09) (fun _ _ _ => rfl) (fun _ _ _ _ => rfl) fun _ _ _ _ => BitVec.getLsbD_and

/-- Settles O35: OR is format R3 with the disjunction of each pair of bits (R106). -/
theorem orIsBitwise : Obligations.OrIsBitwise :=
  r3Bitwise_of_runR3 (op := 0x0A) (fun _ _ _ => rfl) (fun _ _ _ _ => rfl) fun _ _ _ _ => BitVec.getLsbD_or

/-- Settles O36: XOR is format R3 with the inequality of each pair of bits (R107). -/
theorem xorIsBitwise : Obligations.XorIsBitwise :=
  r3Bitwise_of_runR3 (op := 0x0B) (fun _ _ _ => rfl) (fun _ _ _ _ => rfl) fun _ _ _ _ => BitVec.getLsbD_xor

/-- Settles O38: NOT is format R2 with the complement within 256 bits, which is 2^256 - 1 - a (R109). -/
theorem notInvertsAllBits : Obligations.NotInvertsAllBits := by
  intro s rd rs1
  obtain ⟨a, t, ha, hrun, hval, hwritten, hframe⟩ := runR2_writes s rd rs1 fun a => ~~~a
  refine ⟨packWord_R2_eq_or 0x0D rd rs1, a, t, ha, hrun, ?_, fun k hk => ?_, hwritten, hframe⟩
  · rw [hval, BitVec.toNat_not]
  · simp only [hval, BitVec.getLsbD_not, hk, decide_true, Bool.true_and]

end Sys2Proof.Proofs

/-! PROOFS. The statement about POPCNT (46_popcount.md): format S1, its word and what a command of it reads, writes and
leaves, and the sum of the bits as the number of bit positions that hold a 1. -/

namespace Sys2Proof

/-- The word of a command of format S1, whose `rd`, `rs2`, `rd2` and `imm` are zero (R52). -/
theorem packWord_S1_eq_or (op : BitVec 8) (rs1 : Reg) :
    packWord op 0 rs1 0 0 0 = packWord op 0 0 0 0 0 ||| BitVec.ofNat 32 rs1.val <<< 18 := by
  rw [packWord_R2_eq_or]
  simp

end Sys2Proof

namespace Sys2Proof.Machine

/-- Format S1 reads its source, writes the result to SRES and nothing else, a free value included (R14). -/
theorem runS1_writes (s : State) (rs1 : Reg) (f : U256 → Word) :
    ∃ a t, s.Reads rs1 a ∧ runS1 f rs1 s = .next t ∧ t.sres = f a ∧ State.OnlyWritesSres s t := by
  refine ⟨_, _, s.reads_operandA rs1, rfl, rfl, fun q _ => ⟨?_, ?_⟩, ?_, ?_, ?_, ?_, ?_⟩ <;> simp

/-- Bits summed as 0 and 1 count the places where the bit is 1. -/
theorem sum_map_toNat_eq_countP {α : Type} (p : α → Bool) (l : List α) :
    (l.map fun x => (p x).toNat).sum = l.countP p := by
  induction l with
  | nil => rfl
  | cons x l ih => cases hx : p x <;> simp [hx, ih, Nat.add_comm]

/-- The sum of the bits is the number of the 256 positions at which the bit is 1 (R120). -/
theorem popcnt_eq_length_filter (v : U256) :
    popcnt v = ((List.finRange 256).filter fun k => v.getLsbD k.val).length := by
  rw [popcnt, sum_map_toNat_eq_countP, ← List.map_coe_finRange_eq_range, List.countP_map, List.countP_eq_length_filter]
  rfl

end Sys2Proof.Machine

namespace Sys2Proof.Proofs

open Sys2Proof.Machine

/-- Settles O40: POPCNT is format S1 with the count of the 1 bits, which is at most 256 and so fits SRES (R120). -/
theorem popcntCountsOneBits : Obligations.PopcntCountsOneBits := by
  intro s rs1
  obtain ⟨a, t, ha, hrun, hsres, hframe⟩ := runS1_writes s rs1 popcountCode
  have hcount : t.sres.toNat = popcnt a := by rw [hsres, toNat_popcountCode]
  exact ⟨packWord_S1_eq_or 0x0F rs1, a, t, ha, hrun, hcount.trans (popcnt_eq_length_filter a),
    hcount.trans_le (popcnt_le a), hframe⟩

end Sys2Proof.Proofs

/-! PROOFS. The statements about the host's interface (47_host_interface.md): the image of a register as its 32 limbs
of 8 bits, what each transaction of the host does in one step, and what a step leaves of the host's record and of the
registers' having values. -/

namespace Sys2Proof.Machine

/-! ### The limbs of a value put together from limbs (R13) -/

section

variable {W : Nat} {rs : List Nat}

theorem fromLimbs_lt (h : ∀ r ∈ rs, r < 2 ^ W) : fromLimbs W rs < 2 ^ (W * rs.length) := by
  induction rs with
  | nil => simp
  | cons r rs ih =>
    obtain ⟨hr, hrs⟩ := List.forall_mem_cons.mp h
    calc fromLimbs W (r :: rs) < 2 ^ W + 2 ^ W * fromLimbs W rs := by simpa using hr
      _ = 2 ^ W * (fromLimbs W rs + 1) := by ring
      _ ≤ 2 ^ W * 2 ^ (W * rs.length) := Nat.mul_le_mul_left _ (ih hrs)
      _ = 2 ^ (W * (r :: rs).length) := by rw [List.length_cons, Nat.mul_succ, Nat.add_comm, Nat.pow_add]

theorem limb_fromLimbs (h : ∀ r ∈ rs, r < 2 ^ W) {i : Nat} (hi : i < rs.length) : limb W (fromLimbs W rs) i = rs[i] := by
  induction rs generalizing i with
  | nil => cases hi
  | cons r rs ih =>
    obtain ⟨hr, hrs⟩ := List.forall_mem_cons.mp h
    cases i with
    | zero => simp [limb_zero, Nat.mod_eq_of_lt hr]
    | succ i =>
      have hdiv : fromLimbs W (r :: rs) / 2 ^ W = fromLimbs W rs := by
        rw [fromLimbs_cons, Nat.add_mul_div_left _ _ (Nat.two_pow_pos W), Nat.div_eq_of_lt hr, Nat.zero_add]
      rw [limb_succ, hdiv, ih hrs (Nat.lt_of_succ_lt_succ hi), List.getElem_cons_succ]

theorem fromLimbs_map_finRange {n : Nat} (f : Fin n → Nat) :
    fromLimbs W ((List.finRange n).map f) = ((List.finRange n).map fun k => f k * 2 ^ (W * k.val)).sum := by
  induction n with
  | zero => rfl
  | succ n ih =>
    simp only [List.finRange_succ, List.map_cons, List.map_map, List.sum_cons, fromLimbs_cons, ih,
      ← List.sum_map_mul_left]
    simp [Function.comp_def, Nat.mul_succ, Nat.pow_add, Nat.mul_comm, Nat.mul_left_comm]

end

/-! ### The image of a register (R31) -/

section

variable (bytes : Image) (v : U256)

/-- The bytes of an image as numbers, byte 0 first. -/
def byteValues : List Nat := (List.finRange 32).map fun k => (bytes.get k).toNat

theorem byteValues_lt : ∀ r ∈ byteValues bytes, r < 2 ^ 8 := by
  simpa [byteValues] using fun k => (bytes.get k).isLt

theorem map_toNat_toList : bytes.toList.map BitVec.toNat = byteValues bytes := by
  apply List.ext_getElem <;> simp [byteValues, Vector.get_eq_getElem]

theorem imageValue_eq_registerOf : imageValue bytes = registerOf 8 (byteValues bytes) := by
  rw [← map_toNat_toList, registerOf, fromLimbs, List.foldr_map, imageValue]

/-- The 32 bytes fill the register exactly, so that nothing of them is lost. -/
theorem toNat_imageValue : (imageValue bytes).toNat = fromLimbs 8 (byteValues bytes) := by
  have hlt : fromLimbs 8 (byteValues bytes) < 2 ^ 256 := by
    simpa [byteValues] using fromLimbs_lt (byteValues_lt bytes)
  rw [imageValue_eq_registerOf, registerOf, BitVec.toNat_ofNat, Nat.mod_eq_of_lt hlt]

theorem get_imageOf (k : Fin 32) : (imageOf v).get k = v.extractLsb' (8 * k.val) 8 := by
  simp [imageOf, Vector.get_eq_getElem]

theorem toNat_get_imageOf (k : Fin 32) : ((imageOf v).get k).toNat = limb 8 v.toNat k := by
  rw [get_imageOf, BitVec.extractLsb'_toNat, Nat.shiftRight_eq_div_pow, limb]

/-- The image stored of a value loaded is the image loaded (R127). -/
theorem imageOf_imageValue : imageOf (imageValue bytes) = bytes := by
  have hbyte (k : Fin 32) : (imageOf (imageValue bytes)).get k = bytes.get k := by
    apply BitVec.eq_of_toNat_eq
    rw [toNat_get_imageOf, toNat_imageValue, limb_fromLimbs (byteValues_lt bytes) (by simp [byteValues])]
    simp [byteValues]
  ext k hk : 1
  exact hbyte ⟨k, hk⟩

end

/-! ### One step, by the transaction offered -/

section

variable {s : State} {rest : List Transaction}

theorem onceReset_of_offered {x : Transaction} (h : s.Offered x rest) (r : Result) :
    onceReset (s.withPending rest) r = r := if_pos h.1

theorem step_of_offered_load {i : Reg} {bytes : Image} (h : s.Offered (.load i bytes) rest) :
    step s = .next ((s.withPending rest).writeU i (imageValue bytes)) :=
  (step_of_pending h.2).trans (onceReset_of_offered h _)

theorem step_of_offered_store {i : Reg} (h : s.Offered (.store i) rest) :
    step s = .next (((s.withPending rest).afterRead i).reply (.image (imageOf (s.readU i)))) :=
  (step_of_pending h.2).trans (onceReset_of_offered h _)

/-- A register that has a value is stored without taking a free value. -/
theorem step_of_offered_store_of_written {i : Reg} (h : s.Offered (.store i) rest) (hw : s.isWritten i = true) :
    step s = .next ((s.withPending rest).reply (.image (imageOf (s.getU i)))) := by
  rw [step_of_offered_store h, State.afterRead_of_written (s := s.withPending rest) hw, State.readU_of_written hw]

theorem step_of_offered_csrrd {k : Nat} (h : s.Offered (.csrrd k) rest) :
    step s = performCsrrd k (s.withPending rest) :=
  (step_of_pending h.2).trans (onceReset_of_offered h _)

theorem step_of_offered_ack (h : s.Offered .ack rest) : step s = .next (s.withPending rest).acknowledge :=
  (step_of_pending h.2).trans (onceReset_of_offered h _)

end

theorem State.acknowledge_of_unfaulted {s : State} (h : s.fault = 0) : s.acknowledge = s := by
  rw [State.acknowledge, ← h]

theorem performExec_of_decode {s : State} {w : Word} {i : Instr} (hs : s.fault = 0) (hd : decode w = .ok i) :
    performExec w s = exec i s := by
  rcases performExec_cases w s with ⟨hne, -⟩ | ⟨-, ⟨e, he⟩, -⟩ | ⟨-, j, hj, hrun⟩
  · exact absurd hs hne
  · rw [hd] at he
    cases he
  · rw [hd] at hj
    cases hj
    exact hrun

theorem State.reads_readU (s : State) (r : Reg) : s.Reads r (s.readU r) := State.readU_of_written

/-! ### What a step leaves -/

/-- Once a register has a value, a command leaves it with one: its own where it is a destination, else the old. -/
theorem exec_keeps_isWritten {i : Instr} {s t : State} {q : Reg} (h : exec i s = .next t)
    (hq : s.isWritten q = true) : t.isWritten q = true := by
  obtain ⟨-, ⟨hregs, hdests, -⟩ | ⟨hregs, -⟩⟩ := exec_cases h
  · by_cases hd : q ∈ i.dests
    · exact hdests q hd
    · exact (hregs q hd).2.trans hq
  · exact (hregs q List.not_mem_nil).2.trans hq

/-- An EXEC returns nothing to the host and takes no register's value away. -/
theorem performExec_keeps_replies_and_written {w : Word} {s t : State} (h : performExec w s = .next t) :
    t.replies = s.replies ∧ ∀ q, s.isWritten q = true → t.isWritten q = true := by
  rcases performExec_cases w s with ⟨-, hdrop⟩ | ⟨-, -, hill⟩ | ⟨-, i, -, hrun⟩
  · rw [hdrop] at h
    cases h
    exact ⟨rfl, fun _ hq => hq⟩
  · rw [hill] at h
    cases h
    exact ⟨rfl, fun _ hq => hq⟩
  · rw [hrun] at h
    obtain ⟨⟨-, -, hreplies⟩, -⟩ := exec_cases h
    exact ⟨hreplies, fun _ => exec_keeps_isWritten h⟩

/-- A step only adds to what the host has read back, and takes a register's value away only by a RESET. -/
theorem step_keeps_replies_and_written {s t : State} (h : step s = .next t) :
    s.replies <+: t.replies ∧
    ((∃ rest, s.pending = .reset :: rest) ∨ ∀ q, s.isWritten q = true → t.isWritten q = true) := by
  rcases step_cases h with ⟨-, rfl⟩ | ⟨x, rest, hp, hx⟩
  · exact ⟨List.prefix_rfl, .inr fun _ hq => hq⟩
  rcases issue_cases hx with ⟨rfl, rfl⟩ | ⟨-, hload | hstore | hexec | hcsrrd | hack⟩
  · exact ⟨List.prefix_rfl, .inl ⟨rest, hp⟩⟩
  · obtain ⟨i, bytes, -, rfl⟩ := hload
    exact ⟨List.prefix_rfl, .inr fun q hq => by simp [hq]⟩
  · obtain ⟨i, -, rfl⟩ := hstore
    exact ⟨by simp, .inr fun q hq => by simp [hq]⟩
  · obtain ⟨w, -, hw⟩ := hexec
    obtain ⟨hreplies, hwritten⟩ := performExec_keeps_replies_and_written hw
    exact ⟨by simp [hreplies], .inr hwritten⟩
  · obtain ⟨k, -, hk⟩ := hcsrrd
    obtain ⟨v, rfl, -⟩ := performCsrrd_cases hk
    exact ⟨List.prefix_append _ _, .inr fun _ hq => hq⟩
  · obtain ⟨-, rfl⟩ := hack
    exact ⟨List.prefix_rfl, .inr fun _ hq => hq⟩

end Sys2Proof.Machine

namespace Sys2Proof.Proofs

open Sys2Proof.Machine

/-- Settles O14: the bytes stored are the limbs of 8 bits of the value, and a value loaded is the sum of its bytes, each
below 2^8, so that its limbs are the bytes again (R127). -/
theorem storeReturnsLittleEndianImage : Obligations.StoreReturnsLittleEndianImage := by
  refine ⟨fun s i rest hoff => ?_, fun s t u i bytes rest rest' hload ht hstore hw hval => ?_, fun s t h => ?_⟩
  · exact ⟨_, _, _, s.reads_readU i, step_of_offered_store hoff, by simp, get_imageOf _, fun q _ => by simp, by simp⟩
  · rw [step_of_offered_load hload] at ht
    cases ht
    have hloaded : u.getU i = imageValue bytes := hval.trans (State.getU_writeU_self _)
    rw [step_of_offered_store_of_written hstore hw, hloaded, imageOf_imageValue]
    rfl
  · obtain ⟨⟨more, hmore⟩, -⟩ := step_keeps_replies_and_written h
    exact ⟨more, hmore.symm⟩

/-- Settles O16: RESET clears from every state, and a step that is no RESET leaves every register's value (R131). -/
theorem onlyResetMakesRegistersUnspecified : Obligations.OnlyResetMakesRegistersUnspecified := by
  refine ⟨fun s rest hp => ?_, fun s t q h hq hlost => ?_⟩
  · exact ⟨_, step_of_pending_reset hp, rfl, rfl, rfl, State.isWritten_clear _⟩
  · obtain ⟨-, hreset | hkeep⟩ := step_keeps_replies_and_written h
    · exact hreset
    · exact absurd (hkeep q hq) (by simp [hlost])

/-- Settles O10: after ACK the block is unfaulted, so that the next EXEC is not dropped (R130). -/
theorem ackReturnsFromFault : Obligations.AckReturnsFromFault := by
  intro s rest hoff
  have hstep := step_of_offered_ack hoff
  refine ⟨hstep, fun hs => ?_, fun t w i rest' ht hrest hd => ?_⟩
  · rw [hstep, State.acknowledge_of_unfaulted (s := s.withPending rest) hs]
  · rw [hstep] at ht
    cases ht
    have hnext : ((s.withPending rest).acknowledge).Offered (.exec w) rest' := ⟨hoff.1, hrest⟩
    rw [step_of_offered_exec hnext]
    exact performExec_of_decode rfl hd

/-- Settles O12: CSRRD answers the register of its number, whatever FAULT is (R129). -/
theorem csrrdReturnsControlRegister : Obligations.CsrrdReturnsControlRegister := by
  intro s k rest hoff
  refine ⟨?_, ?_, ?_⟩ <;> rintro rfl <;> exact step_of_offered_csrrd hoff

/-- Settles O13: LOAD writes the value of the image, which is the sum over its bytes, and nothing else (R126). -/
theorem loadWritesWholeRegister : Obligations.LoadWritesWholeRegister := by
  intro s i bytes rest hoff
  refine ⟨_, step_of_offered_load hoff, ?_, by simp, fun q hq => ?_, rfl, rfl, rfl, hoff.1, rfl, rfl, rfl⟩
  · rw [State.getU_writeU_self, toNat_imageValue, byteValues, fromLimbs_map_finRange]
  · have hne : q ≠ i := by simpa using hq
    simp [hne]

end Sys2Proof.Proofs

/-! PROOFS. The statements about faults (60_exceptions.md): which words are illegal, which of the two codes an EXEC
raises, what fault entry leaves, and what a faulted block still performs. -/

namespace Sys2Proof

/-! ### The illegal words (R141) are those that match no row of the opcode map (R54) -/

theorem mem_opcodeMap_opcodes_iff {op : BitVec 8} : op ∈ opcodeMap.map Prod.fst ↔ op ≠ 0 ∧ op.toNat < 0x10 := by
  simp only [opcodeMap, List.map_cons, List.map_nil, List.mem_cons, List.not_mem_nil, or_false]
  bv_omega

/-- Each row is its opcode, under a mask of the opcode and the must-be-zero bits of its format. -/
theorem opcodeMap_fields : ∀ row ∈ opcodeMap, row.2.1 = packWord row.1 0 0 0 0 0 ∧
    row.2.2 = packWord 0xFF (rdField row.2.2) 0 (rs2Field row.2.2) (rd2Field row.2.2) (immField row.2.2) ∧
    Machine.mbzBits row.1 =
      packWord 0 (rdField row.2.2) 0 (rs2Field row.2.2) (rd2Field row.2.2) (immField row.2.2) := by
  intro row hrow
  fin_cases hrow <;> decide

theorem and_packWord_zero_eq_zero_iff {mrd mrs2 mrd2 : Reg} {mimm : BitVec 12} {w : Word} :
    w &&& packWord 0 mrd 0 mrs2 mrd2 mimm = 0 ↔ MaskedFieldsZero mrd mrs2 mrd2 mimm w := by
  have hzero : (0 : Word) = packWord 0 0 0 0 0 0 := rfl
  conv_lhs => rw [← packWord_fields w, packWord_and, hzero, packWord_inj]
  simp [MaskedFieldsZero]

/-- A word matches a row exactly when it has the row's opcode and zero in the fields its format does not use (R52). -/
theorem and_mask_eq_match_iff_mbzBits {row : BitVec 8 × Word × Word} (hrow : row ∈ opcodeMap) {w : Word} :
    w &&& row.2.2 = row.2.1 ↔ opField w = row.1 ∧ w &&& Machine.mbzBits row.1 = 0 := by
  obtain ⟨hmatch, hmask, hmbz⟩ := opcodeMap_fields row hrow
  rw [hmbz, and_packWord_zero_eq_zero_iff, hmatch, hmask, and_mask_eq_match_iff, ← hmask]

theorem not_illegalWord_of_decode {w : Word} {i : Instr} (h : decode w = .ok i) : ¬ Machine.IllegalWord w := by
  obtain ⟨row, hrow, hop, hmatch⟩ := encode_matches_row i
  rw [encode_of_decode h] at hmatch
  obtain ⟨hw, hmbz⟩ := (and_mask_eq_match_iff_mbzBits hrow).mp hmatch
  obtain ⟨-, hdests⟩ := (rowDecides_of_mem_opcodeMap row hrow w).mp ⟨i, h, hop.symm⟩
  obtain ⟨hne, hlt⟩ := mem_opcodeMap_opcodes_iff.mp (List.mem_map_of_mem hrow)
  rw [← hw] at hne hlt hmbz hdests
  rintro (h0 | hge | hbits | ⟨h4, hsame⟩)
  · exact hne h0
  · exact Nat.not_lt.mpr hge hlt
  · exact hbits hmbz
  · exact hdests h4 hsame

theorem decode_of_not_illegalWord {w : Word} (h : ¬ Machine.IllegalWord w) : ∃ i, decode w = .ok i := by
  obtain ⟨hne, hlt, hmbz, hdests⟩ : opField w ≠ 0 ∧ (opField w).toNat < 0x10 ∧
      w &&& Machine.mbzBits (opField w) = 0 ∧ (opField w = 0x04 → rdField w ≠ rd2Field w) := by
    simpa [Machine.IllegalWord] using h
  obtain ⟨row, hrow, hop⟩ := List.mem_map.mp (mem_opcodeMap_opcodes_iff.mpr ⟨hne, hlt⟩)
  rw [← hop] at hmbz hdests
  obtain ⟨i, hi, -⟩ :=
    (rowDecides_of_mem_opcodeMap row hrow w).mpr ⟨(and_mask_eq_match_iff_mbzBits hrow).mpr ⟨hop.symm, hmbz⟩, hdests⟩
  exact ⟨i, hi⟩

theorem decode_error_of_illegalWord {w : Word} (h : Machine.IllegalWord w) : ∃ e, decode w = .error e := by
  cases hd : decode w with
  | ok i => exact absurd h (not_illegalWord_of_decode hd)
  | error e => exact ⟨e, rfl⟩

/-- A decoded DIVMOD names two destinations, since the word of one that names a single one is illegal (R56). -/
theorem wellFormed_of_decode {w : Word} {i : Instr} (h : decode w = .ok i) : i.wellFormed = true := by
  obtain rfl := encode_of_decode h
  cases i with
  | divmod rd rd2 rs1 rs2 =>
    refine decide_eq_true fun hr => ?_
    rw [hr, decode_encode_divmod_same] at h
    cases h
  | _ => rfl

end Sys2Proof

namespace Sys2Proof.Machine

/-! ### The fault a command raises -/

section

variable {i : Instr} {s t : State}

@[simp] theorem State.dividesByZero_withPending (p : List Transaction) :
    (s.withPending p).dividesByZero i ↔ s.dividesByZero i := by
  cases i with
  | divmod => simp [State.dividesByZero]
  | _ => rfl

theorem exec_fault_of_dividesByZero (hwf : i.wellFormed = true) (hz : s.dividesByZero i) (h : exec i s = .next t) :
    t.fault = 2 := by
  cases i with
  | divmod rd rd2 rs1 rs2 =>
    obtain ⟨u, hu, hfault, -⟩ := exec_divmod_raises (of_decide_eq_true hwf) hz
    rw [h] at hu
    cases hu
    exact hfault
  | _ => exact hz.elim

theorem exec_fault_of_not_dividesByZero (hwf : i.wellFormed = true) (hz : ¬ s.dividesByZero i)
    (h : exec i s = .next t) : t.fault = s.fault := by
  obtain ⟨-, ⟨-, -, hfault, -⟩ | ⟨-, -, -, rd, rd2, rs1, rs2, rfl, ⟨hr, -⟩ | ⟨-, hb, -⟩⟩⟩ := exec_cases h
  · exact hfault
  · exact absurd hr (of_decide_eq_true hwf)
  · exact absurd hb hz

end

/-! ### EXEC -/

section

variable {w : Word} {s t : State}

theorem performExec_of_decode_error {e : Reject} (hs : s.fault = 0) (hd : decode w = .error e) :
    performExec w s = .next (s.raise illegalCommand w) := by
  rcases performExec_cases w s with ⟨hne, -⟩ | ⟨-, -, hill⟩ | ⟨-, i, hi, -⟩
  · exact absurd hs hne
  · exact hill
  · rw [hd] at hi
    cases hi

theorem performExec_next (w : Word) (s : State) : ∃ t, performExec w s = .next t := by
  rcases performExec_cases w s with ⟨-, hdrop⟩ | ⟨-, -, hill⟩ | ⟨-, i, -, hrun⟩
  · exact ⟨_, hdrop⟩
  · exact ⟨_, hill⟩
  · rw [hrun]
    exact exec_next i s

/-- An EXEC leaves the RESET mark, the host's list and what the host has read back. -/
theorem performExec_keeps_host (h : performExec w s = .next t) :
    t.resetDone = s.resetDone ∧ t.pending = s.pending ∧ t.replies = s.replies := by
  rcases performExec_cases w s with ⟨-, hdrop⟩ | ⟨-, -, hill⟩ | ⟨-, i, -, hrun⟩
  · rw [hdrop] at h
    cases h
    exact ⟨rfl, rfl, rfl⟩
  · rw [hill] at h
    cases h
    exact ⟨rfl, rfl, rfl⟩
  · rw [hrun] at h
    obtain ⟨hkeep, -⟩ := exec_cases h
    exact hkeep

end

/-! ### CSRRD -/

/-- The numbers 0, 1 and 2 name a register, and its value is returned (R129). -/
theorem performCsrrd_of_le_two {k : Nat} (hk : k ≤ 2) (s : State) :
    ∃ v, (k = 0 → v = s.status) ∧ (k = 1 → v = s.sres) ∧ (k = 2 → v = s.fcmd) ∧
      performCsrrd k s = .next (s.reply (.csr v)) := by
  obtain rfl | rfl | rfl : k = 0 ∨ k = 1 ∨ k = 2 := by omega
  · exact ⟨s.status, by simp, by simp, by simp, rfl⟩
  · exact ⟨s.sres, by simp, by simp, by simp, rfl⟩
  · exact ⟨s.fcmd, by simp, by simp, by simp, rfl⟩

end Sys2Proof.Machine

namespace Sys2Proof.Proofs

open Sys2Proof.Machine

/-- Settles O5: the words of R141 are the words that do not decode, and EXEC rejects such a word before it reads a
register. -/
theorem illegalWordsRaiseIllegalCommand : Obligations.IllegalWordsRaiseIllegalCommand := by
  refine fun s w rest hoff hs => ⟨fun hill => ?_, decode_of_not_illegalWord⟩
  obtain ⟨e, he⟩ := decode_error_of_illegalWord hill
  exact (step_of_offered_exec hoff).trans (performExec_of_decode_error (s := s.withPending rest) hs he)

/-- Settles O7: only EXEC looks at FAULT, so that the other transactions act as they do in an unfaulted block (R148). -/
theorem execIsDroppedWhileFaulted : Obligations.ExecIsDroppedWhileFaulted := by
  intro s rest hs
  refine ⟨fun w hoff => ?_, fun i bytes hoff => ?_, fun i hoff => ?_, fun k hk hoff => ?_, fun hoff => ?_⟩
  · exact (step_of_offered_exec hoff).trans (performExec_of_faulted (s := s.withPending rest) hs)
  · exact step_of_offered_load hoff
  · exact ⟨_, _, s.reads_readU i, step_of_offered_store hoff, by simp, by simp⟩
  · obtain ⟨v, h0, h1, h2, hread⟩ := performCsrrd_of_le_two hk (s.withPending rest)
    exact ⟨v, h0, h1, h2, (step_of_offered_csrrd hoff).trans hread⟩
  · exact step_of_offered_ack hoff

/-- Settles O8: EXEC asks first whether the block is faulted, then whether the word decodes, and a decoded command
faults only on a divisor that is 0 as read (R145). -/
theorem oneFaultPerExecByPriority : Obligations.OneFaultPerExecByPriority := by
  intro s w rest hoff
  obtain ⟨t, ht⟩ := performExec_next w (s.withPending rest)
  refine ⟨t, (step_of_offered_exec hoff).trans ht, fun hs => ?_, fun hs ⟨e, he⟩ => ?_, fun i hs hd hz => ?_,
    fun i hs hd hz => ?_⟩
  · rw [performExec_of_faulted (s := s.withPending rest) hs] at ht
    cases ht
    rfl
  · rw [performExec_of_decode_error (s := s.withPending rest) hs he] at ht
    cases ht
    rfl
  · rw [performExec_of_decode (s := s.withPending rest) hs hd] at ht
    exact exec_fault_of_dividesByZero (wellFormed_of_decode hd) (by simpa using hz) ht
  · rw [performExec_of_decode (s := s.withPending rest) hs hd] at ht
    exact (exec_fault_of_not_dividesByZero (wellFormed_of_decode hd) (by simpa using hz) ht).trans hs

/-- Settles O9: an EXEC that leaves FAULT other than 0 did not complete, and fault entry writes FAULT and FCMD alone
(R146). -/
theorem faultEntryRecordsCodeAndWord : Obligations.FaultEntryRecordsCodeAndWord := by
  intro s t w rest hoff hs h hfault
  rw [step_of_offered_exec hoff] at h
  obtain ⟨hreset, hpending, hreplies⟩ := performExec_keeps_host h
  rcases performExec_unfaulted_cases h hs with ⟨hcode, hfcmd, hregs, hsres⟩ | ⟨h0, -⟩
  · exact ⟨hcode, hfcmd, hregs, hsres, hreset, hpending, hreplies⟩
  · exact absurd h0 hfault

end Sys2Proof.Proofs

/-! PROOFS. The statement about RESET (70_reset_and_hazards.md): which steps give a register a specified value. -/

namespace Sys2Proof.Machine

/-! ### How a register gets a specified value (R160) -/

section

variable {s t : State} {q : Reg}

theorem State.KeepsRegistersBut.mem_of_newly_written {ds : List Reg} (h : State.KeepsRegistersBut ds s t)
    (hq : s.isWritten q = false) (hq' : t.isWritten q = true) : q ∈ ds := by
  by_contra hd
  rw [(h q hd).2, hq] at hq'
  cases hq'

/-- A command that faults writes no register, and one that completes only its destinations (R14). -/
theorem mem_dests_of_exec_newly_written {i : Instr} (h : exec i s = .next t) (hq : s.isWritten q = false)
    (hq' : t.isWritten q = true) : q ∈ i.dests := by
  obtain ⟨-, ⟨hregs, -⟩ | ⟨hregs, -⟩⟩ := exec_cases h
  · exact hregs.mem_of_newly_written hq hq'
  · exact absurd (hregs.mem_of_newly_written hq hq') List.not_mem_nil

/-- An EXEC that is dropped or that faults leaves the written marks, so the one that gives a register a value ran a
command to its end. -/
theorem performExec_newly_written {w : Word} (h : performExec w s = .next t) (hq : s.isWritten q = false)
    (hq' : t.isWritten q = true) : ∃ i, decode w = .ok i ∧ q ∈ i.dests ∧ s.fault = 0 ∧ t.fault = 0 := by
  by_cases hs : s.fault = 0
  · rcases performExec_unfaulted_cases h hs with ⟨-, -, hregs, -⟩ | ⟨h0, -, i, hd, hexec⟩
    · exact absurd (hregs.mem_of_newly_written hq hq') List.not_mem_nil
    · exact ⟨i, hd, mem_dests_of_exec_newly_written hexec hq hq', hs, h0⟩
  · rw [performExec_of_faulted hs] at h
    cases h
    simp [hq] at hq'

/-- Of the transactions, LOAD writes one register and EXEC those of a command; the others write no mark, but for RESET,
which clears them all. -/
theorem step_newly_written (h : step s = .next t) (hq : s.isWritten q = false) (hq' : t.isWritten q = true) :
    (∃ bytes rest, s.pending = .load q bytes :: rest) ∨
    (∃ w rest, s.pending = .exec w :: rest ∧ performExec w (s.withPending rest) = .next t) := by
  rcases step_cases h with ⟨-, rfl⟩ | ⟨x, rest, hp, hx⟩
  · simp [hq] at hq'
  rcases issue_cases hx with ⟨-, rfl⟩ | ⟨-, hload | hstore | hexec | hcsrrd | hack⟩
  · simp at hq'
  · obtain ⟨i, bytes, rfl, rfl⟩ := hload
    obtain rfl : q = i := by simpa [hq] using hq'
    exact .inl ⟨bytes, rest, hp⟩
  · obtain ⟨i, -, rfl⟩ := hstore
    simp [hq] at hq'
  · obtain ⟨w, rfl, hw⟩ := hexec
    exact .inr ⟨w, rest, hp, hw⟩
  · obtain ⟨k, -, hk⟩ := hcsrrd
    obtain ⟨v, rfl, -⟩ := performCsrrd_cases hk
    simp [hq] at hq'
  · obtain ⟨-, rfl⟩ := hack
    simp [hq] at hq'

end

end Sys2Proof.Machine

namespace Sys2Proof.Proofs

open Sys2Proof.Machine

/-- Settles O15: RESET leaves the reset values from every state, and the step that gives a register a value is a LOAD
into it or an EXEC whose command completed with it as a destination (R160). -/
theorem resetLeavesStatedValues : Obligations.ResetLeavesStatedValues := by
  refine ⟨fun s rest hp => ?_, ⟨rfl, rfl, rfl, State.isWritten_reset⟩, fun s t q h hq hq' => ?_⟩
  · exact ⟨_, step_of_pending_reset hp, rfl, rfl, rfl, State.isWritten_clear _, rfl, rfl⟩
  · rcases step_newly_written h hq hq' with hload | ⟨w, rest, hp, hw⟩
    · exact .inl hload
    · obtain ⟨i, hd, hdest, hs, h0⟩ := performExec_newly_written hw hq hq'
      exact .inr ⟨w, i, rest, hp, hd, hdest, hs, h0⟩

end Sys2Proof.Proofs

/-! PROOFS. The statements about the encoder, the decoder and the assembler (30_encoding.md): each format decodes the
word its fields spell, so that encoding and decoding are each other's inverse on well-formed commands. -/

namespace Sys2Proof

/-! ### Decoding a packed word, by format (R52) -/

section

variable (op : BitVec 8) (rd rs1 rs2 rd2 : Reg) (imm : BitVec 12)

theorem decodeR3_packWord (mk : Reg → Reg → Reg → Instr) :
    decodeR3 mk (packWord op rd rs1 rs2 0 0) = .ok (mk rd rs1 rs2) := by
  simp [decodeR3]

theorem decodeRI_packWord (mk : Reg → Reg → BitVec 12 → Instr) :
    decodeRI mk (packWord op rd rs1 0 0 imm) = .ok (mk rd rs1 imm) := by
  simp [decodeRI]

theorem decodeR4_packWord {rd rd2 : Reg} (hr : rd ≠ rd2) :
    decodeR4 (packWord op rd rs1 rs2 rd2 0) = .ok (.divmod rd rd2 rs1 rs2) := by
  simp [decodeR4, hr]

theorem decodeR2_packWord : decodeR2 (packWord op rd rs1 0 0 0) = .ok (.not rd rs1) := by
  simp [decodeR2]

theorem decodeS2_packWord : decodeS2 (packWord op 0 rs1 rs2 0 0) = .ok (.cmp rs1 rs2) := by
  simp [decodeS2]

theorem decodeS1_packWord : decodeS1 (packWord op 0 rs1 0 0 0) = .ok (.popcnt rs1) := by
  simp [decodeS1]

end

/-- The opcode of a command's word selects the command's own format, which finds its unused fields zero. -/
theorem decode_encode {i : Instr} (h : i.wellFormed = true) : decode (encode i) = .ok i := by
  rw [decode, opField_encode]
  cases i with
  | divmod rd rd2 rs1 rs2 => exact decodeR4_packWord _ _ _ (of_decide_eq_true h)
  | shli rd rs1 imm | shri rd rs1 imm => exact decodeRI_packWord ..
  | not rd rs1 => exact decodeR2_packWord ..
  | cmp rs1 rs2 => exact decodeS2_packWord ..
  | popcnt rs1 => exact decodeS1_packWord ..
  | _ rd rs1 rs2 => exact decodeR3_packWord ..

theorem exists_divmod_of_not_wellFormed {i : Instr} (h : i.wellFormed = false) :
    ∃ rd rs1 rs2, i = .divmod rd rd rs1 rs2 := by
  cases i with
  | divmod rd rd2 rs1 rs2 =>
    obtain rfl : rd = rd2 := by simpa [Instr.wellFormed] using h
    exact ⟨rd, rs1, rs2, rfl⟩
  | _ => cases h

end Sys2Proof

namespace Sys2Proof.Machine

/-! ### The assembler (R59) -/

section

variable {n : Nat}

theorem asmImmediate_eq_none_iff : asmImmediate n = none ↔ n > 4095 := by
  simp [asmImmediate]

variable {a : Asm}

theorem wellFormed_of_asmInstr {i : Instr} (h : asmInstr a = some i) : i.wellFormed = true := by
  cases a with
  | divmod uq ur ua ub =>
    obtain ⟨hr, rfl⟩ : uq ≠ ur ∧ Instr.divmod uq ur ua ub = i := by simpa [asmInstr] using h
    exact decide_eq_true hr
  | shli ud ua n | shri ud ua n =>
    obtain ⟨imm, -, rfl⟩ := Option.map_eq_some_iff.mp h
    rfl
  | _ => cases h; rfl

/-- The two kinds of line that have no command. -/
theorem asmInstr_eq_none_iff : asmInstr a = none ↔
    (∃ ud ua n, n > 4095 ∧ (a = .shli ud ua n ∨ a = .shri ud ua n)) ∨ (∃ q ua ub, a = .divmod q q ua ub) := by
  cases a with
  | divmod uq ur ua ub => simp [asmInstr, eq_comm]
  | shli ud ua n | shri ud ua n => simp [asmInstr, asmImmediate_eq_none_iff]
  | _ => simp [asmInstr]

end

/-! ### DIVMOD with one destination -/

theorem illegalWord_of_equal_destinations {w : Word} (hop : opField w = 0x04) (hr : rdField w = rd2Field w) :
    IllegalWord w := .inr (.inr (.inr ⟨hop, hr⟩))

theorem exec_divmod_same (s : State) (rd rs1 rs2 : Reg) : exec (.divmod rd rd rs1 rs2) s =
    .next (s.raise illegalCommand (encode (.divmod rd rd rs1 rs2))) := by
  rw [exec, execDivmod, if_pos rfl]

end Sys2Proof.Machine

namespace Sys2Proof.Proofs

open Sys2Proof.Machine

/-- Settles O2: a packed word gives back each of its fields, so that the format of its opcode finds the command. -/
theorem decodeInvertsEncode : Obligations.DecodeInvertsEncode := fun _ => decode_encode

/-- Settles O3: a word is the packing of its fields, and a decoded DIVMOD has two destinations (R55, R56). -/
theorem encodeInvertsDecode : Obligations.EncodeInvertsDecode :=
  fun _ _ h => ⟨encode_of_decode h, wellFormed_of_decode h⟩

/-- Settles O1: the six worked encodings are the words of well-formed commands; the four illegal words are computed. -/
theorem workedEncodingsDecode : Obligations.WorkedEncodingsDecode :=
  ⟨decode_encode (i := .add 2 0 1) rfl, decode_encode (i := .divmod 3 4 0 1) rfl,
    decode_encode (i := .shli 1 1 255) rfl, decode_encode (i := .not 1 0) rfl, decode_encode (i := .cmp 2 0) rfl,
    decode_encode (i := .popcnt 5) rfl, by decide, by decide, by decide, by decide⟩

/-- Settles O29: such a word is one of R141's, and `exec` of such a command raises the same code before it reads (R56). -/
theorem equalDestinationsAreIllegal : Obligations.EqualDestinationsAreIllegal := by
  refine ⟨fun s w rest hoff hs hop hr => ?_, exec_divmod_same, fun i => exists_divmod_of_not_wellFormed⟩
  exact (illegalWordsRaiseIllegalCommand s w rest hoff hs).1 (illegalWord_of_equal_destinations hop hr)

/-- Settles O48: the assembler emits the word of a well-formed command, or nothing where the line has no command. -/
theorem assemblerRefusesRatherThanReduces : Obligations.AssemblerRefusesRatherThanReduces := by
  refine ⟨fun a w h => ?_, fun a => Option.map_eq_none_iff.trans asmInstr_eq_none_iff⟩
  obtain ⟨i, hi, rfl⟩ := Option.map_eq_some_iff.mp h
  exact ⟨i, decode_encode (wellFormed_of_asmInstr hi), hi⟩

end Sys2Proof.Proofs

/-! PROOFS. The statements about the invariant of FAULT, SRES and FCMD (10_state.md, 60_exceptions.md): the reset state
meets it, and every step keeps it. -/

namespace Sys2Proof.Machine

section

variable {s t : State}

/-- The invariant speaks of FAULT, SRES and FCMD alone. -/
theorem State.Inv.of_same_control (h : s.Inv) (hfault : t.fault = s.fault) (hsres : t.sres = s.sres)
    (hfcmd : t.fcmd = s.fcmd) : t.Inv := by
  obtain ⟨hcode, hrange, hill, hdiv, hword⟩ := h
  exact ⟨by rwa [hfault], by rwa [hsres], by rwa [hfault, hfcmd], by rwa [hfault, hfcmd], by rwa [hfcmd]⟩

/-- In an unfaulted block the invariant's clauses about a fault just taken have nothing to say. -/
theorem State.inv_of_unfaulted (hfault : t.fault = 0) (hsres : t.sres = 0xFFFFFFFF ∨ t.sres.toNat ≤ 256)
    (hword : ∀ i, decode t.fcmd = .ok i → ∃ rd rd2 rs1 rs2, i = .divmod rd rd2 rs1 rs2) : t.Inv :=
  ⟨.inl hfault, hsres, fun h => absurd (hfault.symm.trans h) (by decide),
    fun h => absurd (hfault.symm.trans h) (by decide), hword⟩

/-- The word 0, which FCMD holds after RESET, has a reserved opcode (R55). -/
theorem decode_zero : decode 0 = .error .reservedOpcode := by decide

theorem State.inv_of_cleared (hfault : s.fault = 0) (hsres : s.sres = 0) (hfcmd : s.fcmd = 0) : s.Inv := by
  refine State.inv_of_unfaulted hfault (.inr (by simp [hsres])) fun i hi => ?_
  rw [hfcmd, decode_zero] at hi
  cases hi

theorem State.Inv.withPending (h : s.Inv) (p : List Transaction) : (s.withPending p).Inv :=
  h.of_same_control rfl rfl rfl

theorem State.Inv.acknowledge (h : s.Inv) : s.acknowledge.Inv :=
  State.inv_of_unfaulted rfl h.sresRange h.faultingWord

/-- Fault entry with IllegalCommand records a word that does not decode (R146). -/
theorem State.Inv.raise_illegalCommand {w : Word} {e : Reject} (h : s.Inv) (hw : decode w = .error e) :
    (s.raise illegalCommand w).Inv where
  faultCode := .inr (.inl rfl)
  sresRange := h.sresRange
  illegalWord := fun _ => ⟨e, hw⟩
  divmodWord := fun hcode => absurd hcode (by simp [illegalCommand, divideByZero])
  faultingWord := fun i hi => by
    rw [State.fcmd_raise, hw] at hi
    cases hi

/-- A compare result is -1 or at most 1 (R18). -/
theorem compareCode_range (a b : U256) : compareCode a b = 0xFFFFFFFF ∨ (compareCode a b).toNat ≤ 256 := by
  obtain ⟨c, hc, rfl | rfl | rfl, -⟩ := compareCode_eq_ofInt a b
  · exact .inl hc
  · exact .inr (by simp [hc])
  · exact .inr (by simp [hc])

/-- A command leaves SRES as it was, or in the range of a compare result or a count (R18). -/
theorem exec_sres_range {i : Instr} (h : exec i s = .next t) (hs : s.sres = 0xFFFFFFFF ∨ s.sres.toNat ≤ 256) :
    t.sres = 0xFFFFFFFF ∨ t.sres.toNat ≤ 256 := by
  obtain ⟨-, ⟨-, -, -, -, hsres | ⟨rs1, rs2, -, hcmp⟩ | ⟨rs1, -, hcount⟩⟩ | ⟨-, hsres, -⟩⟩ := exec_cases h
  · rwa [hsres]
  · rw [hcmp]
    exact compareCode_range _ _
  · rw [hcount, toNat_popcountCode]
    exact .inr (popcnt_le _)
  · rwa [hsres]

/-- A decoded command completes, or is a DIVMOD that raises DivideByZero with its own word (R142, R146). -/
theorem exec_keeps_inv {w : Word} {i : Instr} (hinv : s.Inv) (hs : s.fault = 0) (hd : decode w = .ok i)
    (h : exec i s = .next t) : t.Inv := by
  have hrange := exec_sres_range h hinv.sresRange
  obtain ⟨-, ⟨-, -, hfault, hfcmd, -⟩ | ⟨-, -, hfcmd, rd, rd2, rs1, rs2, rfl, ⟨hr, -⟩ | ⟨-, -, hcode⟩⟩⟩ := exec_cases h
  · exact State.inv_of_unfaulted (hfault.trans hs) hrange (by rw [hfcmd]; exact hinv.faultingWord)
  · exact absurd hr (of_decide_eq_true (wellFormed_of_decode hd))
  · have hword : decode t.fcmd = .ok (.divmod rd rd2 rs1 rs2) := by rw [hfcmd, encode_of_decode hd, hd]
    refine ⟨.inr (.inr hcode), hrange, fun hill => ?_, fun _ => ⟨rd, rd2, rs1, rs2, hword⟩, fun j hj => ?_⟩
    · exact absurd (hcode.symm.trans hill) (by decide)
    · rw [hword] at hj
      cases hj
      exact ⟨rd, rd2, rs1, rs2, rfl⟩

theorem performExec_keeps_inv {w : Word} (hinv : s.Inv) (h : performExec w s = .next t) : t.Inv := by
  rcases performExec_cases w s with ⟨-, hdrop⟩ | ⟨-, ⟨e, he⟩, hill⟩ | ⟨hs, i, hd, hrun⟩
  · rw [hdrop] at h
    cases h
    exact hinv
  · rw [hill] at h
    cases h
    exact hinv.raise_illegalCommand he
  · rw [hrun] at h
    exact exec_keeps_inv hinv hs hd h

/-- Of the steps that write the control registers, RESET clears them, ACK clears FAULT, and EXEC keeps the invariant. -/
theorem step_keeps_inv (hinv : s.Inv) (h : step s = .next t) : t.Inv := by
  rcases step_control_cases h with ⟨hfault, hsres, hfcmd⟩ | ⟨rest, -, rfl⟩ | ⟨rest, -, rfl⟩ | ⟨w, rest, -, -, hw⟩
  · exact hinv.of_same_control hfault hsres hfcmd
  · exact State.inv_of_cleared rfl rfl rfl
  · exact (hinv.withPending rest).acknowledge
  · exact performExec_keeps_inv (hinv.withPending rest) hw

end

end Sys2Proof.Machine

namespace Sys2Proof.Proofs

open Sys2Proof.Machine

/-- Settles O57: after RESET the three registers are 0, and 0 is no command's word. -/
theorem resetStateMeetsInvariant : Obligations.ResetStateMeetsInvariant := State.inv_of_cleared rfl rfl rfl

/-- Settles O58: by what each transaction does to FAULT, SRES and FCMD. -/
theorem everyStepKeepsInvariant : Obligations.EveryStepKeepsInvariant := fun _ _ => step_keeps_inv

end Sys2Proof.Proofs

/-! PROOFS. The statements about what one step answers: the command it runs, the refusals (70_reset_and_hazards.md), the
free values it takes (93_implementation_defined.md I1), and what it returns to the host (47_host_interface.md). -/

namespace Sys2Proof.Machine

/-! ### Refusals -/

section

variable {s : State}

/-- Before the first RESET every transaction but RESET stands behind the one test of `onceReset` (R161). -/
theorem issue_of_not_resetDone {x : Transaction} (hs : s.resetDone = false) (hx : x ≠ .reset) :
    issue x s = .refused .beforeFirstReset := by
  have hrefused (r : Result) : onceReset s r = .refused .beforeFirstReset := if_neg (by simp [hs])
  cases x with
  | reset => exact absurd rfl hx
  | _ => exact hrefused _

theorem performCsrrd_of_ge_three {k : Nat} (hk : k ≥ 3) : performCsrrd k s = .refused (.noSuchCsr k) := by
  obtain ⟨m, rfl⟩ := Nat.exists_eq_add_of_le' hk
  rfl

end

/-! ### Free values -/

section

variable {s t : State} {rs1 rs2 : Reg}

/-- The second read of one register with no value takes the free value after the first one's. -/
theorem State.operandB_same_of_unwritten {r : Reg} (h : s.isWritten r = false) :
    s.operandB r r = Config.unspecifiedU (s.draws + 1) := by
  have h' : (s.afterRead r).isWritten r = false := by rwa [State.isWritten_afterRead]
  rw [State.operandB, State.readU_of_unwritten h', State.afterRead_of_unwritten h]

theorem runS2_of_written {f : U256 → U256 → Word} (h1 : s.isWritten rs1 = true) (h2 : s.isWritten rs2 = true) :
    runS2 f rs1 rs2 s = .next (s.writeSres (f (s.getU rs1) (s.getU rs2))) := by
  rw [runS2, State.operandA_of_written h1, State.operandB_of_written h2, State.afterReads_of_written h1 h2]

@[simp] theorem State.draws_divide (w : Word) (rd rd2 : Reg) (a b : U256) : (s.divide w rd rd2 a b).draws = s.draws := by
  rcases s.divide_cases w rd rd2 a b with ⟨-, hd⟩ | ⟨-, hd⟩ <;> simp [hd]

theorem State.draws_afterRead_of_written (hw : ∀ r ∈ [rs1], s.isWritten r = true) :
    (s.afterRead rs1).draws = s.draws := by
  rw [State.afterRead_of_written (hw rs1 (by simp))]

theorem State.draws_afterReads_of_written (hw : ∀ r ∈ [rs1, rs2], s.isWritten r = true) :
    (s.afterReads rs1 rs2).draws = s.draws := by
  rw [State.afterReads_of_written (hw rs1 (by simp)) (hw rs2 (by simp))]

/-- A command takes free values by its reads alone: what it writes leaves the count. -/
theorem exec_draws_of_written {i : Instr} (hw : ∀ r ∈ i.sources, s.isWritten r = true) (h : exec i s = .next t) :
    t.draws = s.draws := by
  cases i with
  | divmod rd rd2 rs1 rs2 =>
    by_cases hr : rd = rd2
    · obtain rfl := hr
      rw [exec_divmod_same] at h
      cases h
      rfl
    · rw [exec_divmod_of_ne hr] at h
      cases h
      rw [State.draws_divide, State.draws_afterReads_of_written hw]
  | shli rd rs1 imm | shri rd rs1 imm => cases h; exact State.draws_afterRead_of_written hw
  | not rd rs1 => cases h; exact State.draws_afterRead_of_written hw
  | popcnt rs1 =>
    cases h
    rw [State.draws_writeSres, State.draws_afterRead_of_written hw]
  | _ => cases h; exact State.draws_afterReads_of_written hw

end

/-! ### What a step returns to the host -/

section

variable {s t : State}

/-- The host's next transaction is one of the two that return a value (R125). -/
def State.ReturnsNext (s : State) : Prop :=
  (∃ i rest, s.pending = .store i :: rest) ∨ (∃ k rest, s.pending = .csrrd k :: rest)

/-- Once the next transaction is known, it is a STORE or a CSRRD or it returns nothing. -/
theorem State.returnsNext_iff {x : Transaction} {rest : List Transaction} (hp : s.pending = x :: rest) :
    s.ReturnsNext ↔ (∃ i, x = .store i) ∨ (∃ k, x = .csrrd k) := by
  simp [State.ReturnsNext, hp]

/-- A step returns one value where its transaction is a STORE or a CSRRD, and none where it is not. -/
theorem step_replies_cases (h : step s = .next t) :
    (s.ReturnsNext ∧ ∃ r, t.replies = s.replies ++ [r]) ∨ (¬ s.ReturnsNext ∧ t.replies = s.replies) := by
  rcases step_cases h with ⟨hp, rfl⟩ | ⟨x, rest, hp, hx⟩
  · exact .inr ⟨by simp [State.ReturnsNext, hp], rfl⟩
  rw [State.returnsNext_iff hp]
  rcases issue_cases hx with ⟨rfl, rfl⟩ | ⟨-, hload | hstore | hexec | hcsrrd | hack⟩
  · exact .inr ⟨by simp, rfl⟩
  · obtain ⟨i, bytes, rfl, rfl⟩ := hload
    exact .inr ⟨by simp, rfl⟩
  · obtain ⟨i, rfl, rfl⟩ := hstore
    exact .inl ⟨by simp, .image (imageOf (s.readU i)), by simp⟩
  · obtain ⟨w, rfl, hw⟩ := hexec
    obtain ⟨-, -, hreplies⟩ := performExec_keeps_host hw
    exact .inr ⟨by simp, hreplies⟩
  · obtain ⟨k, rfl, hk⟩ := hcsrrd
    obtain ⟨v, rfl, -⟩ := performCsrrd_cases hk
    exact .inl ⟨by simp, _, rfl⟩
  · obtain ⟨rfl, rfl⟩ := hack
    exact .inr ⟨by simp, rfl⟩

theorem step_of_pending_nil (h : s.pending = []) : step s = .next s := by
  rw [step, performNext, h]

end

end Sys2Proof.Machine

namespace Sys2Proof.Proofs

open Sys2Proof.Machine

/-- Settles O6: an EXEC that is neither dropped nor illegal is `exec` of the decoded command (R128). -/
theorem stepRunsDecodedCommand : Obligations.StepRunsDecodedCommand := fun s _ _ rest hoff hs hd _ =>
  (step_of_offered_exec hoff).trans (performExec_of_decode (s := s.withPending rest) hs hd)

/-- Settles O17: RESET alone is not behind the test for the first RESET, and a CSR number above 2 names no register. -/
theorem refusedTransactionsStopByName : Obligations.RefusedTransactionsStopByName := by
  refine ⟨fun s rest hp => ⟨_, step_of_pending_reset hp⟩, fun s x rest hs hp hx => ?_, fun s k rest hoff hk => ?_⟩
  · rw [step_of_pending hp, issue_of_not_resetDone (s := s.withPending rest) hs hx]
  · rw [step_of_offered_csrrd hoff, performCsrrd_of_ge_three hk]

/-- Settles O18: a read takes a free value exactly where the register has none, and reads are all a command takes free
values by. -/
theorem unwrittenReadsAreFreshFreeValues : Obligations.UnwrittenReadsAreFreshFreeValues := by
  refine ⟨fun s r h => ⟨State.readU_of_written h, State.afterRead_of_written h⟩,
    fun s r h => ⟨State.readU_of_unwritten h, State.afterRead_of_unwritten h⟩, fun s t rd r h hrun => ?_,
    fun s t i => exec_draws_of_written⟩
  have hval : t.getU rd = s.operandA r ^^^ s.operandB r r := getU_of_runR3 (f := fun a b => a ^^^ b) hrun
  rw [hval, State.operandB_same_of_unwritten h, State.operandA, State.readU_of_unwritten h]

/-- Settles O19: by the transaction of the step. -/
theorem onlyStoreAndCsrrdReturnValues : Obligations.OnlyStoreAndCsrrdReturnValues := by
  refine ⟨fun s t h => ?_, fun s => step_of_pending_nil⟩
  rcases step_replies_cases h with ⟨hnext, hr⟩ | ⟨hnext, hsame⟩
  · exact ⟨⟨fun _ => hnext, fun _ => hr⟩, .inl hr⟩
  · exact ⟨⟨fun ⟨r, hr⟩ => by simp [hsame] at hr, fun hn => absurd hn hnext⟩, .inr hsame⟩

end Sys2Proof.Proofs

/-! PROOFS. The statements about CMP and its readings (45_compare.md), ANDN (44_logic.md), and the laws that tie two
commands together: the one's complement, SHL and MUL, and the carry of ADD seen by CMP. -/

namespace Sys2Proof

/-- The word of a command of format S2, whose `rd`, `rd2` and `imm` are zero (R52). -/
theorem packWord_S2_eq_or (op : BitVec 8) (rs1 rs2 : Reg) : packWord op 0 rs1 rs2 0 0 =
    packWord op 0 0 0 0 0 ||| BitVec.ofNat 32 rs1.val <<< 18 ||| BitVec.ofNat 32 rs2.val <<< 15 := by
  rw [packWord_R3_eq_or]
  simp

end Sys2Proof

namespace Sys2Proof.Machine

/-- Format S2 reads its two sources, writes the result to SRES and nothing else, free values included (R14). -/
theorem runS2_writes (s : State) (rs1 rs2 : Reg) (f : U256 → U256 → Word) :
    ∃ a b t, s.Reads rs1 a ∧ s.Reads rs2 b ∧ runS2 f rs1 rs2 s = .next t ∧ t.sres = f a b ∧
      State.OnlyWritesSres s t := by
  refine ⟨_, _, _, s.reads_operandA rs1, s.reads_operandB rs1 rs2, rfl, rfl, fun q _ => ⟨?_, ?_⟩, ?_, ?_, ?_, ?_, ?_⟩ <;>
    simp

/-! ### The compare result (R115) and its readings (R117) -/

section

variable {a b : U256}

theorem compareCode_of_lt (h : a.toNat < b.toNat) : compareCode a b = 0xFFFFFFFF := if_pos h

theorem compareCode_of_eq (h : a.toNat = b.toNat) : compareCode a b = 0 := by
  rw [compareCode, if_neg (Nat.not_lt.mpr h.ge), if_pos (BitVec.eq_of_toNat_eq h)]

theorem compareCode_of_gt (h : a.toNat > b.toNat) : compareCode a b = 1 := by
  have hne : a ≠ b := fun hab => h.ne (hab ▸ rfl)
  rw [compareCode, if_neg (Nat.not_lt.mpr h.le), if_neg hne]

variable (a b)

/-- The order of two values, each with the compare result it gives. -/
theorem compareCode_cases : (a.toNat < b.toNat ∧ compareCode a b = 0xFFFFFFFF) ∨
    (a.toNat = b.toNat ∧ compareCode a b = 0) ∨ (a.toNat > b.toNat ∧ compareCode a b = 1) := by
  rcases Nat.lt_trichotomy a.toNat b.toNat with h | h | h
  · exact .inl ⟨h, compareCode_of_lt h⟩
  · exact .inr (.inl ⟨h, compareCode_of_eq h⟩)
  · exact .inr (.inr ⟨h, compareCode_of_gt h⟩)

theorem compareCode_eq_less_iff : compareCode a b = 0xFFFFFFFF ↔ a.toNat < b.toNat := by
  rcases compareCode_cases a b with ⟨h, hc⟩ | ⟨h, hc⟩ | ⟨h, hc⟩ <;> simp [hc] <;> omega

theorem compareCode_eq_zero_iff : compareCode a b = 0 ↔ a = b := by
  rcases compareCode_cases a b with ⟨h, hc⟩ | ⟨h, hc⟩ | ⟨h, hc⟩ <;> simp [hc] <;> bv_omega

theorem compareCode_eq_one_iff : compareCode a b = 1 ↔ a.toNat > b.toNat := by
  rcases compareCode_cases a b with ⟨h, hc⟩ | ⟨h, hc⟩ | ⟨h, hc⟩ <;> simp [hc] <;> omega

theorem sresEq_compareCode : sresEq (compareCode a b) = true ↔ a = b := by
  rw [sresEq, beq_iff_eq, compareCode_eq_zero_iff]

theorem sresNeq_compareCode : sresNeq (compareCode a b) = true ↔ a ≠ b := by
  rw [sresNeq, bne_iff_ne, ne_eq, compareCode_eq_zero_iff]

theorem sresLt_compareCode : sresLt (compareCode a b) = true ↔ a.toNat < b.toNat := by
  rw [sresLt, beq_iff_eq, compareCode_eq_less_iff]

theorem sresLte_compareCode : sresLte (compareCode a b) = true ↔ a.toNat ≤ b.toNat := by
  rw [sresLte, bne_iff_ne, ne_eq, compareCode_eq_one_iff, Nat.not_lt]

theorem sresGt_compareCode : sresGt (compareCode a b) = true ↔ a.toNat > b.toNat := by
  rw [sresGt, beq_iff_eq, compareCode_eq_one_iff]

theorem sresGte_compareCode : sresGte (compareCode a b) = true ↔ a.toNat ≥ b.toNat := by
  rw [sresGte, bne_iff_ne, ne_eq, compareCode_eq_less_iff, Nat.not_lt]

/-- The compare result read as a signed number. -/
theorem sresCmp_compareCode :
    sresCmp (compareCode a b) = if a.toNat < b.toNat then -1 else if a = b then 0 else 1 := by
  unfold compareCode
  split_ifs <;> rfl

theorem toNat_sresMin_compareCode : (sresMin (compareCode a b) a b).toNat = min a.toNat b.toNat := by
  rcases compareCode_cases a b with ⟨h, hc⟩ | ⟨h, hc⟩ | ⟨h, hc⟩ <;> simp [sresMin, hc] <;> omega

theorem toNat_sresMax_compareCode : (sresMax (compareCode a b) a b).toNat = max a.toNat b.toNat := by
  rcases compareCode_cases a b with ⟨h, hc⟩ | ⟨h, hc⟩ | ⟨h, hc⟩ <;> simp [sresMax, hc] <;> omega

/-! ### Laws of the results -/

/-- The one's complement is what is missing to 2^256 - 1. -/
theorem toNat_addWrap_not : (addWrap a (~~~a)).toNat = 2 ^ 256 - 1 := by
  have ha := a.isLt
  rw [toNat_addWrap, BitVec.toNat_not]
  omega

/-- A sum modulo 2^256 is below its first operand exactly when a carry was discarded (R71). -/
theorem toNat_addWrap_lt_iff : (addWrap a b).toNat < a.toNat ↔ a.toNat + b.toNat ≥ 2 ^ 256 := by
  have ha := a.isLt
  have hb := b.isLt
  rw [toNat_addWrap]
  omega

variable {a b}

/-- A left shift is a multiplication by the power of two (R82, R102). -/
theorem shiftLeft_eq_mulWrap {n : Nat} (hn : n < 256) (hb : b.toNat = 2 ^ n) : shiftLeft a n = mulWrap a b := by
  rw [shiftLeft, if_neg (Nat.not_le.mpr hn), mulWrap, hb]

end

/-! ### A command of two registers that have values, by its result -/

section

variable {s t : State} {rd rs1 rs2 : Reg}

theorem of_runR3_of_written {f : U256 → U256 → U256} (h1 : s.isWritten rs1 = true) (h2 : s.isWritten rs2 = true)
    (h : runR3 f rd rs1 rs2 s = .next t) : t = s.writeU rd (f (s.getU rs1) (s.getU rs2)) := by
  rw [runR3_of_written h1 h2] at h
  cases h
  rfl

theorem sres_of_exec_cmp (h1 : s.isWritten rs1 = true) (h2 : s.isWritten rs2 = true)
    (h : exec (.cmp rs1 rs2) s = .next t) : t.sres = compareCode (s.getU rs1) (s.getU rs2) := by
  rw [exec, execCmp, runS2_of_written h1 h2] at h
  cases h
  rfl

end

end Sys2Proof.Machine

namespace Sys2Proof.Proofs

open Sys2Proof.Machine

/-- Settles O37: ANDN is format R3 with the second of each pair of bits complemented (R108; assumption log 11). -/
theorem andnClearsBitsOfSecondSource : Obligations.AndnClearsBitsOfSecondSource :=
  r3Bitwise_of_runR3 (op := 0x0C) (f := fun a b => a &&& ~~~b) (fun _ _ _ => rfl) (fun _ _ _ _ => rfl)
    fun _ _ _ hk => by rw [BitVec.getLsbD_and, BitVec.getLsbD_not, decide_eq_true hk, Bool.true_and]

/-- Settles O39: CMP is format S2 with the compare result (R115; assumption log 10). -/
theorem cmpOrdersAsNaturalNumbers : Obligations.CmpOrdersAsNaturalNumbers := by
  intro s rs1 rs2
  obtain ⟨a, b, t, ha, hb, hrun, hsres, hframe⟩ := runS2_writes s rs1 rs2 compareCode
  refine ⟨packWord_S2_eq_or 0x0E rs1 rs2, a, b, t, ha, hb, hrun, ?_, ?_, ?_, hframe⟩ <;> rw [hsres]
  · exact compareCode_of_lt
  · exact compareCode_of_eq
  · exact compareCode_of_gt

/-- Settles O43: the complement is written over no source, so that ADD reads the value and its complement. -/
theorem onesComplementSumIsAllOnes : Obligations.OnesComplementSumIsAllOnes := by
  intro s t t' d e r hr hne hnot hadd
  rw [exec, execNot, runR2_of_written hr] at hnot
  cases hnot
  have hsum := of_runR3_of_written (by simp [hr]) (by simp) hadd
  rw [hsum, State.getU_writeU_self, State.getU_writeU_self, State.getU_writeU, if_neg hne.symm, toNat_addWrap_not]

/-- Settles O44: both commands write the same value to the same register (R82, R102). -/
theorem shlEqualsMulByPowerOfTwo : Obligations.ShlEqualsMulByPowerOfTwo := by
  intro s t t' rd rs1 rs2 rs3 h1 h2 h3 hn hpow hshl hmul
  rw [of_runR3_of_written (f := fun a n => shiftLeft a n.toNat) h1 h2 hshl, of_runR3_of_written h1 h3 hmul,
    shiftLeft_eq_mulWrap hn hpow]

/-- Settles O45: CMP compares the sum, which is modulo 2^256, with the first operand, still in its register (R71). -/
theorem cmpAfterAddDetectsDiscardedCarry : Obligations.CmpAfterAddDetectsDiscardedCarry := by
  intro s t t' rd rs1 rs2 h1 h2 hne hadd hcmp
  obtain rfl := of_runR3_of_written h1 h2 hadd
  rw [sres_of_exec_cmp (by simp) (by simp [h1]) hcmp, State.getU_writeU_self, State.getU_writeU, if_neg hne.symm,
    compareCode_eq_less_iff, toNat_addWrap_lt_iff]

/-- Settles O46: each reading of the compare result is its predicate or choice (R117). -/
theorem sresReadingsAreThePredicates : Obligations.SresReadingsAreThePredicates := by
  intro s t rs1 rs2 h1 h2 h
  rw [sres_of_exec_cmp h1 h2 h]
  exact ⟨sresEq_compareCode _ _, sresNeq_compareCode _ _, sresLt_compareCode _ _, sresLte_compareCode _ _,
    sresGt_compareCode _ _, sresGte_compareCode _ _, sresCmp_compareCode _ _, toNat_sresMin_compareCode _ _,
    toNat_sresMax_compareCode _ _⟩

end Sys2Proof.Proofs

/-! PROOFS. The statements about the limb-serial adder, subtractor and multiplier (40_add_sub.md, 41_mul.md): each limb
of the result and what is carried on are the remainder and the quotient by 2^W of one number. -/

namespace Sys2Proof.Machine

/-! ### A number modulo 2^(W*(N+1)), limb by limb (R13) -/

section

variable (W N : Nat)

theorem mod_limb_succ (x : Nat) : x % 2 ^ (W * (N + 1)) = x % 2 ^ W + 2 ^ W * (x / 2 ^ W % 2 ^ (W * N)) := by
  rw [Nat.mul_succ, Nat.add_comm (W * N), Nat.pow_add, Nat.mod_mul]

theorem int_mod_limb_succ (x : Int) :
    x % 2 ^ (W * (N + 1)) = x % 2 ^ W + 2 ^ W * (x / 2 ^ W % 2 ^ (W * N)) := by
  have hpos : (0 : Int) ≤ 2 ^ W := by positivity
  rw [Nat.mul_succ, Nat.add_comm (W * N), pow_add, Int.emod_def, Int.emod_def x, Int.emod_def (x / 2 ^ W),
    Int.ediv_ediv_of_nonneg hpos]
  ring

end

/-- A lowest limb and the rest above it, narrowed to N + 1 limbs. -/
theorem limb_add_mod {W N r : Nat} (hr : r < 2 ^ W) (v : Nat) :
    (r + 2 ^ W * v) % 2 ^ (W * (N + 1)) = r + 2 ^ W * (v % 2 ^ (W * N)) := by
  rw [mod_limb_succ, Nat.add_mul_mod_self_left, Nat.mod_eq_of_lt hr, Nat.add_mul_div_left _ _ (Nat.two_pow_pos W),
    Nat.div_eq_of_lt hr, Nat.zero_add]

/-- A register made of limbs is the narrowed number, whatever number the limbs make modulo 2^256. -/
theorem registerOf_eq_ofNat {W : Nat} {rs : List Nat} {v : Nat} (h : fromLimbs W rs = v % 2 ^ 256) :
    registerOf W rs = BitVec.ofNat 256 v := by
  apply BitVec.eq_of_toNat_eq
  rw [registerOf, h, BitVec.toNat_ofNat, BitVec.toNat_ofNat, Nat.mod_mod]

theorem fromLimbs_replicate_zero (W N : Nat) : fromLimbs W (List.replicate N 0) = 0 := by
  induction N with
  | zero => rfl
  | succ N ih => simp [List.replicate_succ, ih]

theorem limbs_lt (W N v : Nat) : ∀ r ∈ limbs W N v, r < 2 ^ W := by
  simp [limbs, limb_lt]

/-! ### The adder (R72) -/

/-- One limb of a sum and the carry into the rest. -/
theorem sum_div_limb (W a b c : Nat) :
    (a + b + c) / 2 ^ W = a / 2 ^ W + b / 2 ^ W + (a % 2 ^ W + b % 2 ^ W + c) / 2 ^ W := by
  have hsplit : a + b + c = a % 2 ^ W + b % 2 ^ W + c + 2 ^ W * (a / 2 ^ W + b / 2 ^ W) := by
    conv_lhs => rw [← Nat.mod_add_div a (2 ^ W), ← Nat.mod_add_div b (2 ^ W)]
    ring
  rw [hsplit, Nat.add_mul_div_left _ _ (Nat.two_pow_pos W), Nat.add_comm]

/-- The carry chain adds its operands and the carry in, for every carry. -/
theorem fromLimbs_rippleCarry (W N a b c : Nat) :
    fromLimbs W (rippleCarry W c (limbs W N a) (limbs W N b)) = (a + b + c) % 2 ^ (W * N) := by
  induction N generalizing a b c with
  | zero => simp [rippleCarry, Nat.mod_one]
  | succ N ih =>
    have hlow : (a % 2 ^ W + b % 2 ^ W + c) % 2 ^ W = (a + b + c) % 2 ^ W := by
      rw [Nat.add_mod, ← Nat.add_mod a, ← Nat.add_mod]
    rw [limbs_succ, limbs_succ, rippleCarry, fromLimbs_cons, ih, hlow, ← sum_div_limb, mod_limb_succ]

/-! ### The subtractor (R75) -/

/-- One limb of a difference, at least -2^W and below 2^W: the quotient by 2^W is the borrow, negated. -/
theorem div_limb_of_bounds {W : Nat} {t : Int} (hlow : -2 ^ W ≤ t) (hhigh : t < 2 ^ W) :
    t / 2 ^ W = -(if t < 0 then 1 else 0) := by
  have hpos : (0 : Int) < 2 ^ W := by positivity
  split_ifs with ht
  · rw [Int.ediv_eq_iff_of_pos hpos]
    omega
  · exact Int.ediv_eq_zero_of_lt (by omega) hhigh

/-- One limb of a difference and the borrow from the rest. -/
theorem difference_div_limb (W a b : Nat) {w : Int} (hw : w = 0 ∨ w = 1) :
    ((a : Int) - b - w) / 2 ^ W = ((a / 2 ^ W : Nat) : Int) - ((b / 2 ^ W : Nat) : Int) -
      (if ((a % 2 ^ W : Nat) : Int) - ((b % 2 ^ W : Nat) : Int) - w < 0 then 1 else 0) := by
  have hpos : (0 : Int) < 2 ^ W := by positivity
  have ha : ((a % 2 ^ W : Nat) : Int) < 2 ^ W := by exact_mod_cast Nat.mod_lt a (Nat.two_pow_pos W)
  have hb : ((b % 2 ^ W : Nat) : Int) < 2 ^ W := by exact_mod_cast Nat.mod_lt b (Nat.two_pow_pos W)
  have hsplit : (a : Int) - b - w = ((a % 2 ^ W : Nat) : Int) - ((b % 2 ^ W : Nat) : Int) - w +
      2 ^ W * (((a / 2 ^ W : Nat) : Int) - ((b / 2 ^ W : Nat) : Int)) := by
    conv_lhs => rw [← Nat.mod_add_div a (2 ^ W), ← Nat.mod_add_div b (2 ^ W)]
    push_cast
    ring
  rw [hsplit, Int.add_mul_ediv_left _ _ hpos.ne', div_limb_of_bounds (by omega) (by omega)]
  ring

/-- The borrow chain subtracts the second operand and the borrow in, as integers, modulo 2^(W*N). -/
theorem fromLimbs_rippleBorrow (W N a b : Nat) {w : Int} (hw : w = 0 ∨ w = 1) :
    (fromLimbs W (rippleBorrow W w (limbs W N a) (limbs W N b)) : Int) = ((a : Int) - b - w) % 2 ^ (W * N) := by
  induction N generalizing a b w with
  | zero => simp [rippleBorrow]
  | succ N ih =>
    have hlow : (((a % 2 ^ W : Nat) : Int) - ((b % 2 ^ W : Nat) : Int) - w) % 2 ^ W = ((a : Int) - b - w) % 2 ^ W := by
      push_cast
      rw [Int.sub_emod, ← Int.sub_emod a, ← Int.sub_emod]
    have hborrow : ∀ t : Int, (if t < 0 then (1 : Int) else 0) = 0 ∨ (if t < 0 then (1 : Int) else 0) = 1 := by
      intro t
      split_ifs <;> simp
    rw [limbs_succ, limbs_succ, rippleBorrow, fromLimbs_cons, hlow, Nat.cast_add, Nat.cast_mul, ih _ _ (hborrow _),
      ← difference_div_limb W a b hw, int_mod_limb_succ, Int.toNat_of_nonneg (Int.emod_nonneg _ (by positivity)),
      Nat.cast_pow, Nat.cast_ofNat]

/-! ### The multiplier (R81) -/

/-- The 2W-bit accumulator holds the largest step: (2^W - 1)^2 + 2 * (2^W - 1) is 2^(2W) - 1. -/
theorem accumulate_lt {W x y r c : Nat} (hx : x < 2 ^ W) (hy : y < 2 ^ W) (hr : r < 2 ^ W) (hc : c < 2 ^ W) :
    x * y + r + c < 2 ^ W * 2 ^ W := by
  nlinarith

theorem accumulate_eq {W x y r c : Nat} (hx : x < 2 ^ W) (hy : y < 2 ^ W) (hr : r < 2 ^ W) (hc : c < 2 ^ W) :
    accumulate W x y r c = x * y + r + c := by
  rw [accumulate, Nat.two_mul, Nat.pow_add, Nat.mod_eq_of_lt (accumulate_lt hx hy hr hc)]

theorem length_mulRow (W x c : Nat) (ys rs : List Nat) : (mulRow W x c ys rs).length = rs.length := by
  induction ys generalizing c rs with
  | nil => rfl
  | cons y ys ih => cases rs <;> simp [mulRow, ih]

theorem mulRow_lt {W x c : Nat} {ys rs : List Nat} (hrs : ∀ r ∈ rs, r < 2 ^ W) :
    ∀ r ∈ mulRow W x c ys rs, r < 2 ^ W := by
  induction ys generalizing c rs with
  | nil => exact hrs
  | cons y ys ih =>
    cases rs with
    | nil => exact hrs
    | cons r rs =>
      obtain ⟨-, hrs⟩ := List.forall_mem_cons.mp hrs
      exact List.forall_mem_cons.mpr ⟨Nat.mod_lt _ (Nat.two_pow_pos W), ih hrs⟩

/-- A row adds `x` times the limbs `ys` and the carry to the result limbs, as far as there are result limbs. -/
theorem fromLimbs_mulRow {W x c : Nat} {ys rs : List Nat} (hx : x < 2 ^ W) (hc : c < 2 ^ W)
    (hys : ∀ y ∈ ys, y < 2 ^ W) (hrs : ∀ r ∈ rs, r < 2 ^ W) (hlen : rs.length ≤ ys.length) :
    fromLimbs W (mulRow W x c ys rs) = (fromLimbs W rs + x * fromLimbs W ys + c) % 2 ^ (W * rs.length) := by
  induction rs generalizing c ys with
  | nil => cases ys <;> simp [mulRow, Nat.mod_one]
  | cons r rs ih =>
    cases ys with
    | nil => simp at hlen
    | cons y ys =>
      obtain ⟨hy, hys⟩ := List.forall_mem_cons.mp hys
      obtain ⟨hr, hrs⟩ := List.forall_mem_cons.mp hrs
      have hcarry : (x * y + r + c) / 2 ^ W < 2 ^ W := Nat.div_lt_of_lt_mul (accumulate_lt hx hy hr hc)
      have hsplit : fromLimbs W (r :: rs) + x * fromLimbs W (y :: ys) + c =
          (x * y + r + c) + 2 ^ W * (fromLimbs W rs + x * fromLimbs W ys) := by
        simp only [fromLimbs_cons]
        ring
      rw [mulRow, fromLimbs_cons, accumulate_eq hx hy hr hc, ih hcarry hys hrs (Nat.le_of_succ_le_succ hlen),
        List.length_cons, mod_limb_succ, hsplit, Nat.add_mul_mod_self_left,
        Nat.add_mul_div_left _ _ (Nat.two_pow_pos W), Nat.add_comm ((x * y + r + c) / 2 ^ W)]

theorem mulRows_cons {W x r : Nat} {bs xs rs rest : List Nat} (h : mulRow W x 0 bs rs = r :: rest) :
    mulRows W bs (x :: xs) rs = r :: mulRows W bs xs rest := by
  rw [mulRows, h]

/-- The rows add the product to the result limbs, truncated to their number. -/
theorem fromLimbs_mulRows {W : Nat} {bs xs rs : List Nat} (hbs : ∀ b ∈ bs, b < 2 ^ W) (hxs : ∀ x ∈ xs, x < 2 ^ W)
    (hrs : ∀ r ∈ rs, r < 2 ^ W) (hlen : rs.length = xs.length) (hle : rs.length ≤ bs.length) :
    fromLimbs W (mulRows W bs xs rs) = (fromLimbs W rs + fromLimbs W xs * fromLimbs W bs) % 2 ^ (W * rs.length) := by
  induction xs generalizing rs with
  | nil =>
    obtain rfl := List.length_eq_zero_iff.mp hlen
    simp [mulRows, Nat.mod_one]
  | cons x xs ih =>
    obtain ⟨hx, hxs⟩ := List.forall_mem_cons.mp hxs
    have hrow := fromLimbs_mulRow hx (Nat.two_pow_pos W) hbs hrs hle
    have hrowlen := length_mulRow W x 0 bs rs
    have hrowlt := mulRow_lt (x := x) (c := 0) (ys := bs) hrs
    cases hm : mulRow W x 0 bs rs with
    | nil => simp [hm, hlen] at hrowlen
    | cons r rest =>
      rw [hm] at hrow hrowlen hrowlt
      obtain ⟨hr, hrest⟩ := List.forall_mem_cons.mp hrowlt
      rw [List.length_cons] at hrowlen
      have hih := ih hxs hrest (by simpa [hlen] using hrowlen) (by omega)
      calc fromLimbs W (mulRows W bs (x :: xs) rs)
          = r + 2 ^ W * ((fromLimbs W rest + fromLimbs W xs * fromLimbs W bs) % 2 ^ (W * rest.length)) := by
            rw [mulRows_cons hm, fromLimbs_cons, hih]
        _ = (fromLimbs W (r :: rest) + 2 ^ W * (fromLimbs W xs * fromLimbs W bs)) % 2 ^ (W * rs.length) := by
            rw [← hrowlen, fromLimbs_cons, Nat.add_assoc, ← Nat.mul_add, limb_add_mod hr]
        _ = (fromLimbs W rs + x * fromLimbs W bs + 0 + 2 ^ W * (fromLimbs W xs * fromLimbs W bs)) %
              2 ^ (W * rs.length) := by rw [hrow, Nat.mod_add_mod]
        _ = (fromLimbs W rs + fromLimbs W (x :: xs) * fromLimbs W bs) % 2 ^ (W * rs.length) := by
            rw [fromLimbs_cons]
            ring_nf

end Sys2Proof.Machine

namespace Sys2Proof.Proofs

open Sys2Proof.Machine

/-- Settles O49: the carry chain gives the sum modulo 2^(W*N), which is 2^256 (R72). -/
theorem adderDatapathComputesSum : Obligations.AdderDatapathComputesSum := fun W N a b hWN =>
  registerOf_eq_ofNat (by rw [fromLimbs_rippleCarry, hWN, Nat.add_zero])

/-- Settles O50: the borrow chain gives the difference of integers modulo 2^(W*N), which is 2^256 (R75). -/
theorem subtractorDatapathComputesDifference : Obligations.SubtractorDatapathComputesDifference := by
  intro W N a b hWN
  apply BitVec.eq_of_toNat_eq
  have hlimbs := fromLimbs_rippleBorrow W N a.toNat b.toNat (.inl rfl)
  rw [hWN, sub_zero] at hlimbs
  rw [toNat_subWrap, ← hlimbs, Int.toNat_natCast, subDatapath, registerOf, BitVec.toNat_ofNat]
  apply Nat.mod_eq_of_lt
  zify
  rw [hlimbs]
  exact Int.emod_lt_of_pos _ (by positivity)

/-- Settles O51: the rows add up the product modulo 2^(W*N), which is 2^256, and no step overflows (R81). -/
theorem multiplierDatapathComputesProduct : Obligations.MultiplierDatapathComputesProduct := by
  refine ⟨fun W N a b hWN => registerOf_eq_ofNat ?_, fun W x y r c => accumulate_eq⟩
  rw [fromLimbs_mulRows (limbs_lt W N _) (limbs_lt W N _) (by simp) (by simp) (by simp), List.length_replicate,
    fromLimbs_replicate_zero, fromLimbs_limbs, fromLimbs_limbs, hWN, Nat.zero_add, ← Nat.mul_mod]

end Sys2Proof.Proofs

/-! PROOFS. The statement about the restoring divider (42_divmod.md): after the dividend's bits from `k` up, `q` and `R`
are the quotient, at its place, and the remainder of the number those bits make. -/

namespace Sys2Proof.Machine

/-! ### One bit of a long division -/

section

variable {a b : Nat}

/-- The number made of the bits from `i` up is twice the number of those above `i`, and bit `i`. -/
theorem div_two_pow_eq (a i : Nat) : a / 2 ^ i = 2 * (a / 2 ^ (i + 1)) + (a.testBit i).toNat := by
  rw [Nat.toNat_testBit, Nat.pow_succ, ← Nat.div_div_eq_div_mul, Nat.div_add_mod]

/-- The restoring step, where the partial remainder reaches the divisor. -/
theorem div_mod_of_ge {n x : Nat} (hb : 0 < b) (hx : x ≤ 1) (hge : b ≤ 2 * (n % b) + x) :
    (2 * n + x) / b = 2 * (n / b) + 1 ∧ (2 * n + x) % b = 2 * (n % b) + x - b := by
  have hlt := Nat.mod_lt n hb
  refine (Nat.div_mod_unique hb).mpr ⟨?_, by omega⟩
  conv_rhs => rw [← Nat.mod_add_div n b]
  rw [Nat.mul_succ]
  have hcomm : b * (2 * (n / b)) = 2 * (b * (n / b)) := by ring
  omega

/-- The restoring step, where the partial remainder stays below the divisor. -/
theorem div_mod_of_lt {n x : Nat} (hb : 0 < b) (hlt : 2 * (n % b) + x < b) :
    (2 * n + x) / b = 2 * (n / b) ∧ (2 * n + x) % b = 2 * (n % b) + x := by
  refine (Nat.div_mod_unique hb).mpr ⟨?_, hlt⟩
  conv_rhs => rw [← Nat.mod_add_div n b]
  ring

end

/-! ### The divider (R87) -/

section

variable {a b : U256}

/-- Shifting a bit into the partial remainder, as far as nothing is shifted out. -/
theorem toNat_shiftIn {R : U256} (x : Bool) (hR : 2 * R.toNat + x.toNat < 2 ^ 256) :
    ((R <<< 1) ||| (BitVec.ofBool x).zeroExtend 256).toNat = 2 * R.toNat + x.toNat := by
  have hx := Bool.toNat_lt x
  have hbit : ((BitVec.ofBool x).zeroExtend 256).toNat = x.toNat := by cases x <;> rfl
  have hshift : (R <<< 1).toNat = R.toNat <<< 1 := by
    rw [BitVec.toNat_shiftLeft, Nat.mod_eq_of_lt]
    rw [Nat.shiftLeft_eq]
    omega
  rw [BitVec.toNat_or, hbit, hshift, ← Nat.shiftLeft_add_eq_or_of_lt (by omega), Nat.shiftLeft_eq, Nat.mul_comm]

/-- Setting bit `i` of a quotient whose bits up to `i` are 0. -/
theorem toNat_or_twoPow {q : U256} {m i : Nat} (hq : q.toNat = m * 2 ^ (i + 1)) (hi : i < 256) :
    (q ||| BitVec.twoPow 256 i).toNat = (2 * m + 1) * 2 ^ i := by
  have hpow : 2 ^ i < 2 ^ (i + 1) := Nat.pow_lt_pow_right (by decide) (Nat.lt_succ_self i)
  rw [BitVec.toNat_or, BitVec.toNat_twoPow_of_lt hi, hq, Nat.mul_comm m, ← Nat.two_pow_add_eq_or_of_lt hpow,
    Nat.pow_succ]
  ring

/-- What the steps for the bits from `k` up have computed: quotient, at its place, and remainder of those bits. -/
def DividedFrom (a b : U256) (k : Nat) (qR : U256 × U256) : Prop :=
  qR.1.toNat = a.toNat / 2 ^ k / b.toNat * 2 ^ k ∧ qR.2.toNat = a.toNat / 2 ^ k % b.toNat

theorem dividedFrom_top (a b : U256) : DividedFrom a b 256 (0, 0) := by
  simp [DividedFrom, Nat.div_eq_of_lt a.isLt]

/-- The partial remainder is at most the dividend bits read so far, so that 256 bits of storage are enough. -/
theorem divStep_dividedFrom (hb : b ≠ 0) {i : Nat} (hi : i < 256) {q R : U256} (h : DividedFrom a b (i + 1) (q, R)) :
    DividedFrom a b i (divStep a b i q R) := by
  obtain ⟨hq, hR⟩ := h
  have hpos : 0 < b.toNat := Nat.pos_of_ne_zero fun h0 => hb (BitVec.eq_of_toNat_eq h0)
  have hbits := div_two_pow_eq a.toNat i
  rw [BitVec.testBit_toNat] at hbits
  have hx := Bool.toNat_le (a.getLsbD i)
  have hroom : 2 * R.toNat + (a.getLsbD i).toNat < 2 ^ 256 := by
    have hle : R.toNat ≤ a.toNat / 2 ^ (i + 1) := hR ▸ Nat.mod_le _ _
    have hdividend : a.toNat / 2 ^ i < 2 ^ 256 := (Nat.div_le_self _ _).trans_lt a.isLt
    omega
  have hshift := toNat_shiftIn _ hroom
  unfold divStep DividedFrom
  split_ifs with hge <;> rw [hshift, hR] at hge
  · obtain ⟨hdiv, hmod⟩ := div_mod_of_ge hpos hx hge
    rw [hbits, hdiv, hmod]
    refine ⟨toNat_or_twoPow hq hi, ?_⟩
    rw [BitVec.toNat_sub_of_le, hshift, hR]
    rw [BitVec.le_def, hshift, hR]
    exact hge
  · obtain ⟨hdiv, hmod⟩ := div_mod_of_lt hpos (Nat.lt_of_not_le hge)
    rw [hbits, hdiv, hmod, hshift, hR]
    refine ⟨?_, rfl⟩
    rw [hq, Nat.pow_succ]
    ring

theorem divSteps_dividedFrom (hb : b ≠ 0) {k : Nat} (hk : k ≤ 256) {qR : U256 × U256} (h : DividedFrom a b k qR) :
    DividedFrom a b 0 (divSteps a b k qR) := by
  induction k generalizing qR with
  | zero => exact h
  | succ i ih => exact ih (Nat.le_of_succ_le hk) (divStep_dividedFrom hb hk h)

end

end Sys2Proof.Machine

namespace Sys2Proof.Proofs

open Sys2Proof.Machine

/-- Settles O52: by the steps' invariant, from the top bit, where nothing is divided, to bit 0 (R87). -/
theorem dividerDatapathComputesQuotientRemainder : Obligations.DividerDatapathComputesQuotientRemainder := by
  intro a b hb
  obtain ⟨hq, hR⟩ := divSteps_dividedFrom hb (Nat.le_refl 256) (dividedFrom_top a b)
  refine Prod.ext (BitVec.eq_of_toNat_eq ?_) (BitVec.eq_of_toNat_eq ?_)
  · rw [toNat_quotient, divDatapath, hq, pow_zero, Nat.div_one, Nat.mul_one]
  · rw [toNat_remainder, divDatapath, hR, pow_zero, Nat.div_one, Nat.mod_eq_sub_div_mul]

end Sys2Proof.Proofs

/-! PROOFS. The statements about the limb-parallel datapaths (43_shift.md, 44_logic.md): every result limb is that limb of
the whole result, bit by bit. -/

namespace Sys2Proof.Machine

/-! ### The bits of a limb (R13) -/

theorem testBit_limb (W v i j : Nat) : (limb W v i).testBit j = (decide (j < W) && v.testBit (W * i + j)) := by
  rw [limb, Nat.testBit_mod_two_pow, Nat.testBit_div_two_pow, Nat.add_comm j]

/-- A register whose limbs are those of a number is that number, narrowed (R13). -/
theorem registerOf_map_range {W N v : Nat} {f : Nat → Nat} (hWN : W * N = 256) (h : ∀ i < N, f i = limb W v i) :
    registerOf W ((List.range N).map f) = BitVec.ofNat 256 v := by
  have hlimbs : (List.range N).map f = limbs W N v := List.map_congr_left fun i hi => h i (List.mem_range.mp hi)
  rw [hlimbs, registerOf_eq_ofNat (by rw [fromLimbs_limbs, hWN])]

theorem limbWidth_pos {W N : Nat} (hWN : W * N = 256) : 0 < W := by
  refine Nat.pos_of_ne_zero fun h0 => ?_
  simp [h0] at hWN

/-- Bit `j` of a limb below the last is a bit of the register. -/
theorem limb_bit_lt {W N i j : Nat} (hWN : W * N = 256) (hi : i < N) (hj : j < W) : W * i + j < 256 := by
  calc W * i + j < W * (i + 1) := by rw [Nat.mul_succ]; omega
    _ ≤ W * N := Nat.mul_le_mul_left W hi
    _ = 256 := hWN

/-! ### The logic unit (R110) -/

section

variable {W N : Nat} {a b c : U256}

/-- The logic unit computes what its function computes on each pair of limbs. -/
theorem logicDatapath_eq {f : Nat → Nat → Nat} (hWN : W * N = 256)
    (h : ∀ i < N, f (limb W a.toNat i) (limb W b.toNat i) = limb W c.toNat i) : logicDatapath f W N a b = c := by
  rw [logicDatapath, limbs, limbs, List.zipWith_map, List.zipWith_self]
  exact (registerOf_map_range hWN h).trans (by simp)

theorem notDatapath_eq (hWN : W * N = 256) (h : ∀ i < N, limbNot W (limb W a.toNat i) = limb W c.toNat i) :
    notDatapath W N a = c := by
  rw [notDatapath, limbs, List.map_map]
  exact (registerOf_map_range hWN h).trans (by simp)

variable (W a b) (i : Nat)

theorem limb_and : limb W a.toNat i &&& limb W b.toNat i = limb W (a &&& b).toNat i := by
  apply Nat.eq_of_testBit_eq
  intro j
  simp only [Nat.testBit_and, testBit_limb, BitVec.toNat_and]
  cases decide (j < W) <;> simp

theorem limb_or : limb W a.toNat i ||| limb W b.toNat i = limb W (a ||| b).toNat i := by
  apply Nat.eq_of_testBit_eq
  intro j
  simp only [Nat.testBit_or, testBit_limb, BitVec.toNat_or, Bool.and_or_distrib_left]

theorem limb_xor : limb W a.toNat i ^^^ limb W b.toNat i = limb W (a ^^^ b).toNat i := by
  apply Nat.eq_of_testBit_eq
  intro j
  simp only [Nat.testBit_xor, testBit_limb, BitVec.toNat_xor, Bool.and_xor_distrib_left]

variable {i}

/-- The complement within W bits is the limb of the complement within 256. -/
theorem limbNot_limb (hWN : W * N = 256) (hi : i < N) :
    limbNot W (limb W a.toNat i) = limb W (~~~a).toNat i := by
  apply Nat.eq_of_testBit_eq
  intro j
  rw [limbNot, Nat.sub_sub, Nat.add_comm 1, Nat.testBit_two_pow_sub_succ (limb_lt _ _ _), testBit_limb, testBit_limb,
    BitVec.testBit_toNat, BitVec.testBit_toNat, BitVec.getLsbD_not]
  by_cases hj : j < W
  · simp [hj, limb_bit_lt hWN hi hj]
  · simp [hj]

end

/-! ### The shifters (R97, R99) -/

section

variable {W N v : Nat}

/-- Bit `k` of a number, 0 where `k` is negative. -/
def bitAt (v : Nat) (k : Int) : Bool := decide (0 ≤ k) && v.testBit k.toNat

theorem bitAt_natCast (v k : Nat) : bitAt v k = v.testBit k := by simp [bitAt]

theorem testBit_mul_two_pow_eq_bitAt (v n m : Nat) : (v * 2 ^ n).testBit m = bitAt v ((m : Int) - n) := by
  rw [← Nat.shiftLeft_eq, Nat.testBit_shiftLeft, bitAt, Int.toNat_sub]
  simp

theorem testBit_div_two_pow_eq_bitAt (v n m : Nat) : (v / 2 ^ n).testBit m = bitAt v ((m : Int) + n) := by
  rw [Nat.testBit_div_two_pow, ← Nat.cast_add, bitAt_natCast]

/-- Limb `k`, outside 0 to N - 1 too, shows the bits of the number from `W * k` up (R97, R99). -/
theorem testBit_limbOrZero (hv : v < 2 ^ (W * N)) (k : Int) (j : Nat) :
    (limbOrZero W N v k).testBit j = (decide (j < W) && bitAt v (W * k + j)) := by
  by_cases hj : j < W
  swap
  · unfold limbOrZero
    split_ifs <;> simp [testBit_limb, hj]
  rcases lt_or_ge k 0 with hneg | hnonneg
  · have hbelow : (W : Int) * k + j < 0 := by nlinarith
    simp [limbOrZero, bitAt, not_le.mpr hneg, not_le.mpr hbelow]
  obtain ⟨i, rfl⟩ := Int.eq_ofNat_of_zero_le hnonneg
  rw [← Nat.cast_mul, ← Nat.cast_add, bitAt_natCast]
  by_cases hi : i < N
  · simp [limbOrZero, hi, testBit_limb]
  · have habove : W * N ≤ W * i + j := (Nat.mul_le_mul_left W (Nat.le_of_not_lt hi)).trans (Nat.le_add_right _ _)
    have hzero : v.testBit (W * i + j) = false :=
      Nat.testBit_lt_two_pow (hv.trans_le (Nat.pow_le_pow_right (by decide) habove))
    simp [limbOrZero, hi, hzero]

/-- The part of a limb moved up by `t` bits, and the part of the limb below moved down beside it: each bit `j` comes
from place `j - t` counted from the foot of limb `k`. -/
theorem testBit_moved_up (hv : v < 2 ^ (W * N)) (k : Int) {t : Nat} (ht : t < W) (j : Nat) :
    (limbOrZero W N v k <<< t % 2 ^ W ||| if t = 0 then 0 else limbOrZero W N v (k - 1) >>> (W - t)).testBit j =
      (decide (j < W) && bitAt v (W * k + j - t)) := by
  have hbelow : (if t = 0 then 0 else limbOrZero W N v (k - 1) >>> (W - t)).testBit j =
      (decide (j < t) && bitAt v (W * k + j - t)) := by
    split_ifs with h0
    · simp [h0]
    · have hplace : (W : Int) * (k - 1) + (W - t + j : Nat) = W * k + j - t := by
        rw [Nat.cast_add, Nat.cast_sub ht.le]
        ring
      have hbound : W - t + j < W ↔ j < t := by omega
      rw [Nat.testBit_shiftRight, testBit_limbOrZero hv, hplace, decide_eq_decide.mpr hbound]
  rw [Nat.testBit_or, hbelow, Nat.testBit_mod_two_pow, Nat.testBit_shiftLeft, testBit_limbOrZero hv]
  rcases lt_or_ge j t with hj | hj
  · simp [hj, not_le.mpr hj, hj.trans ht]
  · have hplace : (W : Int) * k + (j - t : Nat) = W * k + j - t := by
      rw [Nat.cast_sub hj]
      ring
    rw [hplace]
    by_cases hjW : j < W
    · simp [hj, not_lt.mpr hj, hjW, (Nat.sub_le j t).trans_lt hjW]
    · simp [not_lt.mpr hj, hjW]

/-- The part of a limb moved down by `t` bits, and the part of the limb above moved up beside it: each bit `j` comes
from place `j + t` counted from the foot of limb `k`. -/
theorem testBit_moved_down (hv : v < 2 ^ (W * N)) (k : Int) {t : Nat} (ht : t < W) (j : Nat) :
    (limbOrZero W N v k >>> t ||| if t = 0 then 0 else limbOrZero W N v (k + 1) <<< (W - t) % 2 ^ W).testBit j =
      (decide (j < W) && bitAt v (W * k + j + t)) := by
  have habove : (if t = 0 then 0 else limbOrZero W N v (k + 1) <<< (W - t) % 2 ^ W).testBit j =
      (decide (j < W ∧ W - t ≤ j) && bitAt v (W * k + j + t)) := by
    split_ifs with h0
    · have hnone : ¬ (j < W ∧ W - t ≤ j) := by omega
      rw [Nat.zero_testBit, decide_eq_false hnone, Bool.false_and]
    · rw [Nat.testBit_mod_two_pow, Nat.testBit_shiftLeft, testBit_limbOrZero hv, Bool.decide_and, Bool.and_assoc]
      rcases lt_or_ge j (W - t) with hj | hj
      · simp [not_le.mpr hj]
      have hplace : (W : Int) * (k + 1) + (j - (W - t) : Nat) = W * k + j + t := by
        rw [Nat.cast_sub hj, Nat.cast_sub ht.le]
        ring
      rw [hplace]
      by_cases hjW : j < W
      · simp [hj, hjW, (Nat.sub_le j (W - t)).trans_lt hjW]
      · simp [hjW]
  have hplace : (W : Int) * k + (t + j : Nat) = W * k + j + t := by
    push_cast
    ring
  rw [Nat.testBit_or, habove, Nat.testBit_shiftRight, testBit_limbOrZero hv, hplace, ← Bool.and_or_distrib_right,
    ← Bool.decide_or]
  congr 2
  simp only [eq_iff_iff]
  omega

theorem shiftLeftLimb_eq (hv : v < 2 ^ (W * N)) (s : Nat) {t : Nat} (ht : t < W) (i : Nat) :
    shiftLeftLimb W N v s t i = limb W (v * 2 ^ (W * s + t)) i := by
  apply Nat.eq_of_testBit_eq
  intro j
  have hplace : ((W * i + j : Nat) : Int) - (W * s + t : Nat) = W * ((i : Int) - s) + j - t := by
    push_cast
    ring
  rw [testBit_limb, testBit_mul_two_pow_eq_bitAt, hplace]
  exact testBit_moved_up hv _ ht j

theorem shiftRightLimb_eq (hv : v < 2 ^ (W * N)) (s : Nat) {t : Nat} (ht : t < W) (i : Nat) :
    shiftRightLimb W N v s t i = limb W (v / 2 ^ (W * s + t)) i := by
  apply Nat.eq_of_testBit_eq
  intro j
  have hplace : ((W * i + j : Nat) : Int) + (W * s + t : Nat) = W * ((i : Int) + s) + j + t := by
    push_cast
    ring
  rw [testBit_limb, testBit_div_two_pow_eq_bitAt, hplace]
  exact testBit_moved_down hv _ ht j

section

variable (hWN : W * N = 256) (a : U256) (n : Nat)
include hWN

theorem shiftLeftDatapath_eq : shiftLeftDatapath W N a n = shiftLeft a n := by
  unfold shiftLeftDatapath shiftLeft
  split_ifs
  · rfl
  · refine registerOf_map_range hWN fun i _ => ?_
    rw [shiftLeftLimb_eq (by rw [hWN]; exact a.isLt) _ (Nat.mod_lt n (limbWidth_pos hWN)), Nat.div_add_mod]

theorem shiftRightDatapath_eq : shiftRightDatapath W N a n = shiftRight a n := by
  unfold shiftRightDatapath shiftRight
  split_ifs
  · rfl
  · refine registerOf_map_range hWN fun i _ => ?_
    rw [shiftRightLimb_eq (by rw [hWN]; exact a.isLt) _ (Nat.mod_lt n (limbWidth_pos hWN)), Nat.div_add_mod]

end

end

end Sys2Proof.Machine

namespace Sys2Proof.Proofs

open Sys2Proof.Machine

/-- Settles O53: limb `i` of each shifter is limb `i` of the number shifted, the amount being `n / W` limbs and `n % W`
bits (R97, R99). -/
theorem shifterDatapathsComputeShifts : Obligations.ShifterDatapathsComputeShifts :=
  fun _ _ a n hWN => ⟨shiftLeftDatapath_eq hWN a n, shiftRightDatapath_eq hWN a n⟩

/-- Settles O54: each of the five operations works bit by bit, so that it works limb by limb (R110). -/
theorem logicDatapathComputesBitwise : Obligations.LogicDatapathComputesBitwise := by
  intro W N a b hWN
  refine ⟨logicDatapath_eq hWN fun i _ => limb_and W a b i, logicDatapath_eq hWN fun i _ => limb_or W a b i,
    logicDatapath_eq hWN fun i _ => limb_xor W a b i, logicDatapath_eq hWN fun i hi => ?_,
    notDatapath_eq hWN fun i hi => limbNot_limb W a hWN hi⟩
  rw [limbNot_limb W b hWN hi, limb_and]

end Sys2Proof.Proofs

/-! PROOFS. The statements about the comparator and the population count (45_compare.md, 46_popcount.md): a value of
N + 1 limbs is its top limb and the value of the N limbs below it. -/

namespace Sys2Proof.Machine

/-- The limbs of a value with the top one apart (R13). -/
theorem limbs_succ_last (W N v : Nat) : limbs W (N + 1) v = limbs W N v ++ [limb W v N] := by
  simp [limbs, List.range_succ]

/-! ### The comparator (R116) -/

/-- The order of two numbers as the comparator gives it: -1, 0 or 1. -/
def orderOf (x y : Nat) : Int := if x < y then -1 else if x = y then 0 else 1

/-- The value of N + 1 limbs: its top limb counts 2^(W*N). -/
theorem mod_limb_succ_last (W N v : Nat) :
    v % 2 ^ (W * (N + 1)) = v % 2 ^ (W * N) + 2 ^ (W * N) * limb W v N := by
  rw [Nat.mul_succ, Nat.pow_add, Nat.mod_mul, limb]

/-- A difference in the top limb decides the order whatever stands below it. -/
theorem add_mul_lt_of_lt {m x y p q : Nat} (hx : x < m) (h : p < q) : x + m * p < y + m * q := by
  calc x + m * p < m * (p + 1) := by rw [Nat.mul_succ, Nat.add_comm]; omega
    _ ≤ m * q := Nat.mul_le_mul_left m h
    _ ≤ y + m * q := Nat.le_add_left _ _

/-- The scan from the top limb down gives the order of the numbers the limbs make. -/
theorem compareScan_limbs (W N a b : Nat) :
    compareScan (limbs W N a).reverse (limbs W N b).reverse = orderOf (a % 2 ^ (W * N)) (b % 2 ^ (W * N)) := by
  induction N with
  | zero => simp [compareScan, orderOf, Nat.mod_one]
  | succ N ih =>
    have hpos : 0 < 2 ^ (W * N) := Nat.two_pow_pos _
    have ha := Nat.mod_lt a hpos
    have hb := Nat.mod_lt b hpos
    simp only [limbs_succ_last, List.reverse_append, List.reverse_singleton, List.singleton_append, compareScan, ih,
      mod_limb_succ_last]
    rcases Nat.lt_trichotomy (limb W a N) (limb W b N) with h | h | h
    · have hlt := add_mul_lt_of_lt (y := b % 2 ^ (W * N)) ha h
      simp [orderOf, h, h.ne, hlt]
    · simp [orderOf, h]
    · have hlt := add_mul_lt_of_lt (y := a % 2 ^ (W * N)) hb h
      simp [orderOf, h.ne', h.not_gt, hlt.ne', hlt.not_gt]

/-- The compare result is the order of the two values, sign-extended (R115). -/
theorem compareCode_eq_orderOf (a b : U256) : compareCode a b = BitVec.ofInt 32 (orderOf a.toNat b.toNat) := by
  rcases compareCode_cases a b with ⟨h, hc⟩ | ⟨h, hc⟩ | ⟨h, hc⟩
  · simp [hc, orderOf, h]
  · simp [hc, orderOf, h]
  · simp [hc, orderOf, h.ne', h.not_gt]

/-! ### The population count (R121) -/

/-- The counts of the limbs are those of consecutive stretches of W bits. -/
theorem sum_limbPopcnt (W N v : Nat) : ((limbs W N v).map (limbPopcnt W)).sum =
    ((List.range (W * N)).map fun k => (v.testBit k).toNat).sum := by
  induction N with
  | zero => simp
  | succ N ih =>
    have htop : limbPopcnt W (limb W v N) = ((List.range W).map fun j => (v.testBit (W * N + j)).toNat).sum := by
      refine congrArg List.sum (List.map_congr_left fun j hj => ?_)
      rw [testBit_limb, decide_eq_true (List.mem_range.mp hj), Bool.true_and]
    rw [limbs_succ_last, List.map_append, List.sum_append, ih, Nat.mul_succ, List.range_add, List.map_append,
      List.sum_append, List.map_map, List.map_singleton, List.sum_singleton, htop]
    rfl

end Sys2Proof.Machine

namespace Sys2Proof.Proofs

open Sys2Proof.Machine

/-- Settles O55: the scan orders the numbers modulo 2^(W*N), which is 2^256 (R116; the sign is assumption log 10). -/
theorem comparatorDatapathComputesOrder : Obligations.ComparatorDatapathComputesOrder := by
  intro W N a b hWN
  rw [compareDatapath, compareScan_limbs, hWN, Nat.mod_eq_of_lt a.isLt, Nat.mod_eq_of_lt b.isLt,
    compareCode_eq_orderOf]

/-- Settles O56: the stretches of the N limbs make up the 256 bits (R121). -/
theorem popcountDatapathCountsBits : Obligations.PopcountDatapathCountsBits := by
  intro W N a hWN
  rw [popcountDatapath, sum_limbPopcnt, hWN, popcnt]
  simp only [BitVec.testBit_toNat]

end Sys2Proof.Proofs

/-! PROOFS. The statements about runs (R134, R168): a batch of EXECs that ends unfaulted ran every one, and the run of a
program is the run of the list of what it issued, since no transaction looks at the host's list. -/

namespace Sys2Proof.Machine

/-! ### A batch of EXECs (R168) -/

section

variable {s t u : State} {w : Word} {ws : List Word} {rest : List Transaction}

/-- A reset block with a batch of EXECs at the head of the host's list. -/
def State.OffersBatch (s : State) (ws : List Word) (rest : List Transaction) : Prop :=
  s.resetDone = true ∧ s.pending = ws.map Transaction.exec ++ rest

/-- Performing the first EXEC of a batch leaves the rest of the batch. -/
theorem State.OffersBatch.step_cons (h : s.OffersBatch (w :: ws) rest) :
    ∃ u, step s = .next u ∧ u.OffersBatch ws rest ∧
      performExec w (s.withPending (ws.map Transaction.exec ++ rest)) = .next u := by
  obtain ⟨hreset, hpending⟩ := h
  obtain ⟨u, hu⟩ := performExec_next w (s.withPending (ws.map Transaction.exec ++ rest))
  obtain ⟨hreset', hpending', -⟩ := performExec_keeps_host hu
  exact ⟨u, (step_of_offered_exec ⟨hreset, hpending⟩).trans hu, ⟨hreset'.trans hreset, hpending'⟩, hu⟩

/-- Only ACK and RESET clear FAULT, so that a block faulted before an EXEC is faulted after the batch (R148). -/
theorem run_batch_of_faulted (h : s.OffersBatch ws rest) (hs : s.fault ≠ 0)
    (hrun : Sys2Proof.core.run ws.length s = .next t) : t.fault ≠ 0 := by
  induction ws generalizing s with
  | nil =>
    cases hrun
    exact hs
  | cons w ws ih =>
    obtain ⟨u, hstep, hbatch, hexec⟩ := h.step_cons
    rw [List.length_cons, core_run_of_next _ hstep] at hrun
    have hdrop := performExec_of_faulted (w := w) (s := s.withPending (ws.map Transaction.exec ++ rest)) hs
    rw [hdrop] at hexec
    cases hexec
    exact ih hbatch hs hrun

theorem State.dropsNext_of_unfaulted (hs : s.fault = 0) : s.dropsNext = false := by
  unfold State.dropsNext
  split
  · simp [State.faulted, hs]
  · rfl

/-- A step from an unfaulted block drops nothing, so that a run went wrong exactly as the run after its first step. -/
theorem State.wentWrong_of_next {k : Nat} (hs : s.fault = 0) (hstep : step s = .next u)
    (hrun : Sys2Proof.core.run k u = .next t) : s.wentWrong (k + 1) = u.wentWrong k := by
  have hrun' : Sys2Proof.core.run (k + 1) s = .next t := (core_run_of_next k hstep).trans hrun
  rw [State.wentWrong_of_run hrun', State.wentWrong_of_run hrun, State.dropsWithin_of_next k hstep,
    State.dropsNext_of_unfaulted hs, Bool.false_or]

/-- The command `w`, at place `k` of a batch, was run: the block was unfaulted, the word decoded, and the step was `exec`
of the command. -/
def State.RanAt (s : State) (k : Nat) (w : Word) : Prop :=
  ∃ (u v : State) (i : Instr), Sys2Proof.core.run k s = .next u ∧ u.fault = 0 ∧ decode w = .ok i ∧
    exec i (u.withPending u.pending.tail) = .next v ∧ Sys2Proof.core.run (k + 1) s = .next v

theorem State.RanAt.succ {k : Nat} (hstep : step s = .next u) (h : u.RanAt k w) : s.RanAt (k + 1) w := by
  obtain ⟨x, v, i, hx, h0, hd, hexec, hv⟩ := h
  exact ⟨x, v, i, (core_run_of_next k hstep).trans hx, h0, hd, hexec, (core_run_of_next (k + 1) hstep).trans hv⟩

/-- A batch whose run ends unfaulted was unfaulted all along, so that each EXEC completed its command. -/
theorem run_batch_of_unfaulted_end (h : s.OffersBatch ws rest) (hs : s.fault = 0)
    (hrun : Sys2Proof.core.run ws.length s = .next t) (ht : t.fault = 0) :
    t.pending = rest ∧ s.wentWrong ws.length = some false ∧ ∀ k w, ws[k]? = some w → s.RanAt k w := by
  induction ws generalizing s with
  | nil =>
    obtain ⟨-, hpending⟩ := h
    have hright : s.wentWrong 0 = some false := by
      rw [State.wentWrong_of_run (core_run_zero s), State.faulted, hs]
      rfl
    cases hrun
    exact ⟨hpending, hright, fun k w hk => by simp at hk⟩
  | cons w ws ih =>
    obtain ⟨u, hstep, hbatch, hexec⟩ := h.step_cons
    rw [List.length_cons, core_run_of_next _ hstep] at hrun
    have hu : u.fault = 0 := by
      by_contra hne
      exact run_batch_of_faulted hbatch hne hrun ht
    obtain ⟨hpending, hright, hran⟩ := ih hbatch hu hrun
    refine ⟨hpending, (State.wentWrong_of_next hs hstep hrun).trans hright, fun k x hk => ?_⟩
    cases k with
    | zero =>
      obtain rfl : w = x := by simpa using hk
      rcases performExec_unfaulted_cases hexec hs with ⟨hcode, -⟩ | ⟨-, -, i, hd, hi⟩
      · exact absurd hu (faultCode_ne_zero hcode)
      · obtain ⟨-, hoffered⟩ := h
        exact ⟨s, u, i, core_run_zero s, hs, hd, by rwa [hoffered], core_run_of_next 0 hstep⟩
    | succ k => exact (hran k x (by simpa using hk)).succ hstep

end

/-! ### No transaction looks at the host's list, or changes it -/

section

variable {s t : State} (p : List Transaction)

@[simp] theorem State.writeU_withPending (r : Reg) (v : U256) :
    (s.withPending p).writeU r v = (s.writeU r v).withPending p := rfl

@[simp] theorem State.writeSres_withPending (v : Word) :
    (s.withPending p).writeSres v = (s.writeSres v).withPending p := rfl

@[simp] theorem State.reply_withPending (x : Reply) : (s.withPending p).reply x = (s.reply x).withPending p := rfl

@[simp] theorem State.afterReads_withPending (r1 r2 : Reg) :
    (s.withPending p).afterReads r1 r2 = (s.afterReads r1 r2).withPending p := by
  simp [State.afterReads]

theorem State.divide_withPending (w : Word) (rd rd2 : Reg) (a b : U256) :
    (s.withPending p).divide w rd rd2 a b = (s.divide w rd rd2 a b).withPending p := by
  unfold State.divide
  split <;> rfl

variable {rd rs1 rs2 : Reg}

theorem runR3_withPending {f : U256 → U256 → U256} (h : runR3 f rd rs1 rs2 s = .next t) :
    runR3 f rd rs1 rs2 (s.withPending p) = .next (t.withPending p) := by
  cases h
  simp [runR3]

theorem runRI_withPending {f : U256 → Nat → U256} {imm : BitVec 12} (h : runRI f rd rs1 imm s = .next t) :
    runRI f rd rs1 imm (s.withPending p) = .next (t.withPending p) := by
  cases h
  simp [runRI]

theorem runR2_withPending {f : U256 → U256} (h : runR2 f rd rs1 s = .next t) :
    runR2 f rd rs1 (s.withPending p) = .next (t.withPending p) := by
  cases h
  simp [runR2]

theorem runS2_withPending {f : U256 → U256 → Word} (h : runS2 f rs1 rs2 s = .next t) :
    runS2 f rs1 rs2 (s.withPending p) = .next (t.withPending p) := by
  cases h
  simp [runS2]

theorem runS1_withPending {f : U256 → Word} (h : runS1 f rs1 s = .next t) :
    runS1 f rs1 (s.withPending p) = .next (t.withPending p) := by
  cases h
  simp [runS1]

theorem execDivmod_withPending {rd2 : Reg} (h : execDivmod rd rd2 rs1 rs2 s = .next t) :
    execDivmod rd rd2 rs1 rs2 (s.withPending p) = .next (t.withPending p) := by
  cases h
  rw [execDivmod, State.afterReads_withPending, State.operandA_withPending, State.operandB_withPending,
    State.divide_withPending]
  split <;> rfl

/-- A command does the same whatever the host issues next. -/
theorem exec_withPending {i : Instr} (h : exec i s = .next t) :
    exec i (s.withPending p) = .next (t.withPending p) := by
  cases i with
  | divmod rd rd2 rs1 rs2 => exact execDivmod_withPending p h
  | shli rd rs1 imm | shri rd rs1 imm => exact runRI_withPending p h
  | not rd rs1 => exact runR2_withPending p h
  | cmp rs1 rs2 => exact runS2_withPending p h
  | popcnt rs1 => exact runS1_withPending p h
  | shl rd rs1 rs2 => exact runR3_withPending p (f := fun a n => shiftLeft a n.toNat) h
  | shr rd rs1 rs2 => exact runR3_withPending p (f := fun a n => shiftRight a n.toNat) h
  | andn rd rs1 rs2 => exact runR3_withPending p (f := fun a b => a &&& ~~~b) h
  | _ rd rs1 rs2 => exact runR3_withPending p h

theorem performExec_withPending {w : Word} (h : performExec w s = .next t) :
    performExec w (s.withPending p) = .next (t.withPending p) := by
  rcases performExec_cases w s with ⟨hs, hdrop⟩ | ⟨hs, ⟨e, he⟩, hill⟩ | ⟨hs, i, hd, hrun⟩
  · rw [hdrop] at h
    cases h
    exact performExec_of_faulted (s := s.withPending p) hs
  · rw [hill] at h
    cases h
    exact performExec_of_decode_error (s := s.withPending p) hs he
  · rw [hrun] at h
    exact (performExec_of_decode (s := s.withPending p) hs hd).trans (exec_withPending p h)

theorem performCsrrd_withPending {k : Nat} (h : performCsrrd k s = .next t) :
    performCsrrd k (s.withPending p) = .next (t.withPending p) := by
  obtain ⟨v, rfl, ⟨rfl, rfl⟩ | ⟨rfl, rfl⟩ | ⟨rfl, rfl⟩⟩ := performCsrrd_cases h <;> rfl

/-- A transaction does the same whatever the host issues next, and leaves the list as it is. -/
theorem issue_withPending {x : Transaction} (h : issue x s = .next t) :
    issue x (s.withPending p) = .next (t.withPending p) ∧ t.pending = s.pending := by
  rcases issue_cases h with ⟨rfl, rfl⟩ | ⟨hreset, hx⟩
  · exact ⟨rfl, rfl⟩
  have hmeans (r : Result) : onceReset (s.withPending p) r = r := if_pos hreset
  rcases hx with ⟨i, bytes, rfl, rfl⟩ | ⟨i, rfl, rfl⟩ | ⟨w, rfl, hw⟩ | ⟨k, rfl, hk⟩ | ⟨rfl, rfl⟩
  · exact ⟨hmeans _, rfl⟩
  · exact ⟨(hmeans _).trans (by simp [performStore]), by simp⟩
  · obtain ⟨-, hpending, -⟩ := performExec_keeps_host hw
    exact ⟨(hmeans _).trans (performExec_withPending p hw), hpending⟩
  · obtain ⟨v, ht, -⟩ := performCsrrd_cases hk
    exact ⟨(hmeans _).trans (performCsrrd_withPending p hk), by rw [ht, State.pending_reply]⟩
  · exact ⟨hmeans _, rfl⟩

/-- A transaction issued alone is the first step of any list that begins with it. -/
theorem step_withPending_cons {x : Transaction} (h : step (s.withPending [x]) = .next t) :
    step (s.withPending (x :: p)) = .next (t.withPending p) ∧ t.pending = [] := by
  rw [step_of_pending (s := s.withPending [x]) (State.pending_withPending _ _)] at h
  obtain ⟨hissue, hpending⟩ := issue_withPending p h
  exact ⟨(step_of_pending (State.pending_withPending _ _)).trans hissue, hpending⟩

end

/-! ### The run of a program (R134) -/

section

variable {program : Program} {fuel issued : Nat} {s t : State}

/-- The run of the list `xs` from `s` ends in `t`, and each transaction of it is the one the program chooses from what
has been read back by then, `issued` transactions having been issued before. -/
def RunsAsChosen (program : Program) (issued : Nat) (s t : State) (xs : List Transaction) : Prop :=
  Sys2Proof.core.run xs.length (s.withPending xs) = .next t ∧
  ∀ (k : Nat) (x : Transaction), xs[k]? = some x →
    ∃ u : State, Sys2Proof.core.run k (s.withPending xs) = .next u ∧ program (issued + k) u.replies = some x

theorem State.withPending_nil (h : s.pending = []) : s.withPending [] = s := by
  rw [State.withPending, ← h]

theorem runsAsChosen_nil (h : s.pending = []) : RunsAsChosen program issued s s [] :=
  ⟨congrArg Host.Outcome.next (State.withPending_nil h), fun k x hk => by simp at hk⟩

/-- One more transaction at the front of the list, the program's own choice. -/
theorem RunsAsChosen.cons {x : Transaction} {u : State} {xs : List Transaction}
    (hx : program issued s.replies = some x) (hstep : step (s.withPending [x]) = .next u)
    (h : RunsAsChosen program (issued + 1) u t xs) : RunsAsChosen program issued s t (x :: xs) := by
  obtain ⟨hrun, hchosen⟩ := h
  obtain ⟨hfirst, -⟩ := step_withPending_cons xs hstep
  refine ⟨(core_run_of_next _ hfirst).trans hrun, fun k y hk => ?_⟩
  cases k with
  | zero =>
    obtain rfl : x = y := by simpa using hk
    exact ⟨s.withPending (x :: xs), core_run_zero _, hx⟩
  | succ k =>
    obtain ⟨v, hv, hy⟩ := hchosen k y (by simpa using hk)
    exact ⟨v, (core_run_of_next _ hfirst).trans hv, by rwa [Nat.add_assoc, Nat.add_comm 1] at hy⟩

/-- One unfolding of a program's run that answers a next state: it has ended, or a transaction was issued. -/
theorem runProgram_succ_cases (h : runProgram program (fuel + 1) issued s = .next t) :
    (program issued s.replies = none ∧ t = s) ∨
    ∃ x u, program issued s.replies = some x ∧ step (s.withPending [x]) = .next u ∧
      runProgram program fuel (issued + 1) u = .next t := by
  unfold runProgram at h
  split at h
  · next hnone =>
    cases h
    exact .inl ⟨hnone, rfl⟩
  · next x hx =>
    split at h
    · next u hu => exact .inr ⟨x, u, hx, hu, h⟩
    · cases h
    · cases h

/-- A program's run is the run of the list of what it issued, by induction on the bound. -/
theorem runProgram_runsAsChosen (hs : s.pending = []) (h : runProgram program fuel issued s = .next t) :
    ∃ xs : List Transaction, xs.length ≤ fuel ∧
      (xs.length < fuel → program (issued + xs.length) t.replies = none) ∧ RunsAsChosen program issued s t xs := by
  induction fuel generalizing issued s with
  | zero =>
    cases h
    exact ⟨[], Nat.le_refl _, fun hlt => absurd hlt (Nat.lt_irrefl _), runsAsChosen_nil hs⟩
  | succ fuel ih =>
    rcases runProgram_succ_cases h with ⟨hnone, rfl⟩ | ⟨x, u, hx, hu, hrest⟩
    · exact ⟨[], Nat.zero_le _, fun _ => hnone, runsAsChosen_nil hs⟩
    · obtain ⟨-, hempty⟩ := step_withPending_cons [] hu
      obtain ⟨xs, hlen, hend, hruns⟩ := ih hempty hrest
      refine ⟨x :: xs, Nat.succ_le_succ hlen, fun hlt => ?_, hruns.cons hx hu⟩
      rw [List.length_cons, Nat.add_comm xs.length, ← Nat.add_assoc]
      exact hend (Nat.lt_of_succ_lt_succ hlt)

end

end Sys2Proof.Machine

namespace Sys2Proof.Proofs

open Sys2Proof.Machine

/-- Settles O59: by induction on the batch, since a block that is faulted before an EXEC stays so (R168). -/
theorem batchEndingUnfaultedRanEveryCommand : Obligations.BatchEndingUnfaultedRanEveryCommand :=
  fun _ _ _ _ hreset hs hpending => run_batch_of_unfaulted_end ⟨hreset, hpending⟩ hs

/-- Settles O60: by induction on the bound of the run (R134). -/
theorem programRunIsARunOfItsList : Obligations.ProgramRunIsARunOfItsList := by
  intro program fuel s t hs h
  obtain ⟨xs, hlen, hend, hrun, hchosen⟩ := runProgram_runsAsChosen hs h
  simp only [Nat.zero_add] at hend hchosen
  exact ⟨xs, hlen, hend, hrun, hchosen⟩

end Sys2Proof.Proofs
